-- ==== Sys2Proof/Word.lean ====
section
/-! DEFINITION. The word types of the spec (00_scope.md R7): a bit vector where the spec gives a width. -/

namespace Sys2Proof

/-- `u8`: a byte of the sector, a command word, a track tag. -/
abbrev Byte := BitVec 8

/-- Four bits: a sample nibble, a raw shift, a filter nibble. -/
abbrev Nibble := BitVec 4

/-- `i16`: a decoded sample, a ring entry, a queued sample; its number is `BitVec.toInt`. -/
abbrev Sample := BitVec 16

/-- `u32`: a checksum, a sector number. -/
abbrev Word := BitVec 32

end Sys2Proof
end

