-- ==== Sys2Proof/Config.lean ====
section
/-! DEFINITION. The configuration record of R6: every constant the source of the spec does not give, one field each.
The defaults stand in Machine/Defaults.lean. -/

namespace Sys2Proof

/-- `XA_DIV_MODE` (R94): how the division by 64 rounds. -/
inductive DivMode where
  | trunc
  | floor
  deriving DecidableEq, Repr

/-- The configuration record `Cfg` (R6), a field per row of its table. It is fixed before reset and never changes while
the block runs (R148); it is no state (R24). -/
structure Cfg where
  /-- `SECTOR_BYTES` -/
  sectorBytes : Nat
  /-- `EDC_POLY_REFLECTED` (R76) -/
  edcPoly : Word
  /-- `EDC_INIT` (R76) -/
  edcInit : Word
  /-- `EDC_XOROUT` (R76) -/
  edcXorOut : Word
  /-- `OFF_SUBMODE` (R52) -/
  offSubmode : Nat
  /-- `OFF_CODINGINFO` (R52) -/
  offCodingInfo : Nat
  /-- `OFF_XA_PAYLOAD` (R55) -/
  offXaPayload : Nat
  /-- `XA_PAYLOAD_BYTES` (R55) -/
  xaPayloadBytes : Nat
  /-- `XA_BLOCKS` (R55) -/
  xaBlocks : Nat
  /-- `XA_BLOCK_BYTES` (R56) -/
  xaBlockBytes : Nat
  /-- `XA_HEADER_BYTES` (R56) -/
  xaHeaderBytes : Nat
  /-- `XA_SUBBLOCKS` (R57) -/
  xaSubblocks : Nat
  /-- `XA_SAMPLES_PER_SUBBLOCK` (R59) -/
  xaSamples : Nat
  /-- `OFF_SOUNDPARAM` (R57) -/
  offSoundParam : Nat
  /-- `XA_FILTER` (R93): the pair `(f0, f1)` of a filter nibble -/
  xaFilter : Nibble → Int × Int
  /-- `XA_EFF_SHIFT` (R92): the effective shift of a raw shift -/
  xaEffShift : Nibble → Nat
  /-- `XA_DIV_MODE` (R94) -/
  xaDivMode : DivMode
  /-- `RING_ENTRIES` (R105) -/
  ringEntries : Nat
  /-- `ZIGZAG_TAPS` (R109) -/
  zigzagTaps : Nat
  /-- `ZIGZAG_PHASES` (R108) -/
  zigzagPhases : Nat
  /-- `SIXSTEP_PERIOD` (R107) -/
  sixstepPeriod : Nat
  /-- `ZIGZAG` (R109): the coefficient of a phase and a tap -/
  zigzag : Nat → Nat → Int
  /-- `QUEUE_CAP` (R112): `none` is unbounded -/
  queueCap : Option Nat
  /-- `MUTE_RESET` (R20) -/
  muteReset : Bool

end Sys2Proof
end

