-- ==== Sys2Proof/Machine/Defaults.lean ====
section
/-! DEFINITION. The default configuration of R6 (00_scope.md), with the default tables of R92, R93 and U14
(93_implementation_defined.md): the configuration `exec` and `step` run under. -/

namespace Sys2Proof.Machine

/-- `XA_EFF_SHIFT` (R92): `12 - raw` up to 12, and 3 for raw 13 to 15. -/
def defaultEffShift (raw : Nibble) : Nat := if raw.toNat ≤ 12 then 12 - raw.toNat else 3

/-- `XA_FILTER` (R93): entry `n mod 4`, so bits 7 and 6 of the sound-parameter byte are ignored. -/
def defaultFilter (n : Nibble) : Int × Int :=
  match n.toNat % 4 with
  | 0 => (0, 0)
  | 1 => (60, 0)
  | 2 => (115, -52)
  | _ => (98, -55)

/-- Column 0 of U14, taps 0 to 28. -/
def zigzagColumn0 : List Int :=
  [0, 0, 0, 0, 0, -2, 10, -34, 65, -84, 52, 9, -266, 1024, -2680,
    9036, 26516, -6016, 3021, -1571, 848, -365, 107, 10, -16, 17, -8, 3, -1]

/-- Column 1 of U14, taps 0 to 28. -/
def zigzagColumn1 : List Int :=
  [0, 0, 0, -2, 0, 3, -19, 60, -75, 162, -227, 306, -67, -615, 3229,
    29883, -4532, 2488, -1471, 882, -424, 166, -27, 5, 6, -8, 3, -1, 0]

/-- Column 2 of U14, taps 0 to 28. -/
def zigzagColumn2 : List Int :=
  [0, 0, -1, 3, -2, -5, 31, -74, 179, -402, 689, -926, 1272, -1446, 31033,
    -1446, 1272, -926, 689, -402, 179, -74, 31, -5, -2, 3, -1, 0, 0]

/-- Column 3 of U14, taps 0 to 28. -/
def zigzagColumn3 : List Int :=
  [0, -1, 3, -8, 6, 5, -27, 166, -424, 882, -1471, 2488, -4532, 29883, 3229,
    -615, -67, 306, -227, 162, -75, 60, -19, 3, 0, -2, 0, 0, 0]

/-- Column 4 of U14, taps 0 to 28. -/
def zigzagColumn4 : List Int :=
  [-1, 3, -8, 17, -16, 10, 107, -365, 848, -1571, 3021, -6016, 26516, 9036, -2680,
    1024, -266, 9, 52, -84, 65, -34, 10, -1, 0, 1, 0, 0, 0]

/-- Column 5 of U14, taps 0 to 28. -/
def zigzagColumn5 : List Int :=
  [2, -8, 16, -35, 43, 26, -235, 635, -1352, 2810, -5882, 21472, 15367, -4681, 2062,
    -839, 347, -68, -23, 70, -35, 17, -5, 0, 0, 0, 0, 0, 0]

/-- Column 6 of U14, taps 0 to 28. -/
def zigzagColumn6 : List Int :=
  [-5, 17, -35, 70, -23, -68, 347, -839, 2062, -4681, 15367, 21472, -5882, 2810, -1352,
    635, -235, 26, 43, -35, 16, -8, 2, 0, 0, 0, 0, 0, 0]

/-- The column of a phase (U14). -/
def zigzagColumn (k : Nat) : List Int :=
  match k with
  | 0 => zigzagColumn0
  | 1 => zigzagColumn1
  | 2 => zigzagColumn2
  | 3 => zigzagColumn3
  | 4 => zigzagColumn4
  | 5 => zigzagColumn5
  | 6 => zigzagColumn6
  | _ => []

/-- `ZIGZAG(k, i)` (R116, U14). -/
def defaultZigzag (k i : Nat) : Int := (zigzagColumn k).getD i 0

/-- The default configuration, row by row of the table under R6. -/
def cfg : Cfg where
  sectorBytes := 2352
  edcPoly := 0xD8018001
  edcInit := 0x00000000
  edcXorOut := 0x00000000
  offSubmode := 18
  offCodingInfo := 19
  offXaPayload := 24
  xaPayloadBytes := 2304
  xaBlocks := 18
  xaBlockBytes := 128
  xaHeaderBytes := 16
  xaSubblocks := 8
  xaSamples := 28
  offSoundParam := 4
  xaFilter := defaultFilter
  xaEffShift := defaultEffShift
  xaDivMode := .trunc
  ringEntries := 32
  zigzagTaps := 29
  zigzagPhases := 7
  sixstepPeriod := 6
  zigzag := defaultZigzag
  queueCap := none
  muteReset := false

end Sys2Proof.Machine
end

