-- ==== Sys2Proof/Syntax.lean ====
section
/-! DEFINITION. The names the spec's rules use (channels, modes, rates, forms) and `Instr`, one constructor per row
of spec/opcode_table.json: eight operation rows and twelve rows of data formats (30_encoding.md). -/

namespace Sys2Proof

/-- The two channels (R9): `L` is index 0, `R` index 1. -/
inductive Chan where
  | L
  | R
  deriving DecidableEq, Repr

/-- The channel mode of a coding-info byte (R54), held in `MODE_CH` (R18). -/
inductive ChMode where
  | mono
  | stereo
  deriving DecidableEq, Repr

/-- The input sample rate of a coding-info byte (R54), held in `MODE_RATE` (R18). -/
inductive Rate where
  | hz37800
  | hz18900
  deriving DecidableEq, Repr

/-- The track mode, operand of `EDC.CHECK` (R48). -/
inductive TrackMode where
  | mode1
  | mode2
  | audio
  deriving DecidableEq, Repr

/-- The form of a Mode2 sector, selected by submode bit 5 (R53). -/
inductive Form where
  | form1
  | form2
  deriving DecidableEq, Repr

/-- One constructor per row of spec/opcode_table.json, in the table's order.

The operations take their operands from the operand ports (R46), so they carry none. The rows of kind `data_format` and
`data_format_variant` are items of the sector that an operation reads (R45): such a constructor carries every bit of the
item, and its place where the item's effect depends on it. No command word selects one (R47, R49). -/
inductive Instr where
  /-- `XA.CLEAR`, word `00000000` (R120). -/
  | xaClear
  /-- `XA.DECODE`, word `00000001` (R85). -/
  | xaDecode
  /-- `XA.POP`, word `00000010` (R121). -/
  | xaPop
  /-- `XA.MUTE`, word `00000011` (R124). -/
  | xaMute
  /-- `XA.DEMUTE`, word `00000100` (R125). -/
  | xaDemute
  /-- `EDC.CHECK` with mode operand `Mode1`, word `00000101` (R70, R73). -/
  | edcCheckMode1
  /-- `EDC.CHECK` with mode operand `Mode2`, word `00001101` (R70, R74, R75). -/
  | edcCheckMode2
  /-- `EDC.CHECK` with mode operand `Audio`, word `00010101` (R70, R80). -/
  | edcCheckAudio
  /-- The submode byte `xxFxxxxx` (R53): bits 7 to 6, the form bit, bits 4 to 0. -/
  | submode (hi : BitVec 2) (form : Form) (lo : BitVec 5)
  /-- The coding-info byte `xeBBRRCC` (R54). -/
  | codingInfo (x e : BitVec 1) (bb rr cc : BitVec 2)
  /-- The coding-info byte `xx000000`: mono, 37800 Hz (R86). -/
  | codingInfoMono37800 (xe : BitVec 2)
  /-- The coding-info byte `xx000001`: stereo, 37800 Hz (R86). -/
  | codingInfoStereo37800 (xe : BitVec 2)
  /-- The coding-info byte `xx000100`: mono, 18900 Hz (R86). -/
  | codingInfoMono18900 (xe : BitVec 2)
  /-- The coding-info byte `xx000101`: stereo, 18900 Hz (R86). -/
  | codingInfoStereo18900 (xe : BitVec 2)
  /-- The sound-parameter byte `ffffssss` of sub-block `b` of block `blk` (R57, R58). -/
  | soundParam (blk b : Nat) (filter raw : Nibble)
  /-- The sound-parameter byte `xx00ssss`: coefficient pair 0 (R93). -/
  | soundParamFilter0 (blk b : Nat) (xx : BitVec 2) (raw : Nibble)
  /-- The sound-parameter byte `xx01ssss`: coefficient pair 1 (R93). -/
  | soundParamFilter1 (blk b : Nat) (xx : BitVec 2) (raw : Nibble)
  /-- The sound-parameter byte `xx10ssss`: coefficient pair 2 (R93). -/
  | soundParamFilter2 (blk b : Nat) (xx : BitVec 2) (raw : Nibble)
  /-- The sound-parameter byte `xx11ssss`: coefficient pair 3 (R93). -/
  | soundParamFilter3 (blk b : Nat) (xx : BitVec 2) (raw : Nibble)
  /-- The sample nibble `nnnn` (R59) of a sample of sub-block `b`, under the sound-parameter byte whose fields are
  `filter` and `raw`. -/
  | nibble (b : Nat) (filter raw : Nibble) (n : Nibble)
  deriving DecidableEq, Repr

end Sys2Proof
end

