-- ==== Sys2Proof/WellFormed.lean ====
section
/-! DEFINITION. Which terms of `Instr` stand for something a sector or a command word can hold. -/

namespace Sys2Proof

/-- A block has an index below `XA_BLOCKS` (R55), a sub-block an index below `XA_SUBBLOCKS` (R56): 0 to 17 and 0 to 7
under the defaults. -/
def subBlockExists (C : Cfg) (blk b : Nat) : Bool := decide (blk < C.xaBlocks) && decide (b < C.xaSubblocks)

/-- An item that names a place names one that exists; every other term is well formed, because its fields have exactly
the bits of the encoding and every value of them is an encoding (R58, R61). -/
def WellFormedOf (C : Cfg) : Instr → Bool
  | .xaClear => true
  | .xaDecode => true
  | .xaPop => true
  | .xaMute => true
  | .xaDemute => true
  | .edcCheckMode1 => true
  | .edcCheckMode2 => true
  | .edcCheckAudio => true
  | .submode _ _ _ => true
  | .codingInfo _ _ _ _ _ => true
  | .codingInfoMono37800 _ => true
  | .codingInfoStereo37800 _ => true
  | .codingInfoMono18900 _ => true
  | .codingInfoStereo18900 _ => true
  | .soundParam blk b _ _ => subBlockExists C blk b
  | .soundParamFilter0 blk b _ _ => subBlockExists C blk b
  | .soundParamFilter1 blk b _ _ => subBlockExists C blk b
  | .soundParamFilter2 blk b _ _ => subBlockExists C blk b
  | .soundParamFilter3 blk b _ _ => subBlockExists C blk b
  | .nibble b _ _ _ => decide (b < C.xaSubblocks)

/-- Well formed under the default configuration. -/
def WellFormed (i : Instr) : Bool := WellFormedOf Machine.cfg i

end Sys2Proof
end

