-- ==== Sys2Proof/Decode.lean ====
section
/-! DEFINITION. The decoder of command words and of the data formats (30_encoding.md), total on every byte and rejecting
by name; the encoder; the table's rows; and the host's reading of one table word. -/

namespace Sys2Proof

/-- Why a byte is refused in the place it stands. The first four are the cases of R49. -/
inductive Reject where
  /-- `cmd[7:5]` is not 0. -/
  | highBitsSet
  /-- `op` is 6 or 7. -/
  | reservedOp
  /-- `op` is 5 and `mode` is 3. -/
  | reservedMode
  /-- `op` is 0 to 4 and `mode` is not 0. -/
  | modeNotZero
  /-- A coding-info byte that none of the four supported rows matches (R54). -/
  | unsupportedCoding
  /-- A sound-parameter byte or nibble placed where no sub-block is (R55, R56). -/
  | noSuchSubBlock
  /-- A nibble of more than four bits. -/
  | notANibble
  deriving DecidableEq, Repr

/-- The mode operand of `EDC.CHECK`, `cmd[4:3]` (R48). -/
def decodeTrackMode (m : BitVec 2) : Option TrackMode :=
  if m = 0 then some .mode1
  else if m = 1 then some .mode2
  else if m = 2 then some .audio
  else none

/-- The row of `EDC.CHECK` that has this mode operand. -/
def edcCheckOf : TrackMode → Instr
  | .mode1 => .edcCheckMode1
  | .mode2 => .edcCheckMode2
  | .audio => .edcCheckAudio

/-- Operation select `op = cmd[2:0]` for the operations without a mode operand (R47). -/
def decodeXaOp (op : BitVec 3) : Option Instr :=
  if op = 0 then some .xaClear
  else if op = 1 then some .xaDecode
  else if op = 2 then some .xaPop
  else if op = 3 then some .xaMute
  else if op = 4 then some .xaDemute
  else none

/-- The command word `000mmooo` (R46 to R49). -/
def decodeCmd (w : Byte) : Except Reject Instr :=
  let op := w.extractLsb' 0 3
  let mode := w.extractLsb' 3 2
  if w.extractLsb' 5 3 ≠ 0 then .error .highBitsSet
  else if op = 5 then
    match decodeTrackMode mode with
    | some m => .ok (edcCheckOf m)
    | none => .error .reservedMode
  else
    match decodeXaOp op with
    | none => .error .reservedOp
    | some i => if mode = 0 then .ok i else .error .modeNotZero

/-- Where a byte stands, which says which format it has (R45): the command port, or a place in the sector. The two
variant slots read the same byte as the slot before them, by the more particular rows of the table. -/
inductive Slot where
  | cmd
  | submode
  | codingInfo
  | codingInfoVariant
  | soundParam (blk b : Nat)
  | soundParamVariant (blk b : Nat)
  | nibble (b : Nat) (filter raw : Nibble)
  deriving DecidableEq, Repr

/-- The form bit of a submode byte: bit 5 (R53). -/
def formOfBit (f : BitVec 1) : Form := if f = 0 then .form1 else .form2

/-- The bit that selects a form (R53). -/
def bitOfForm : Form → BitVec 1
  | .form1 => 0
  | .form2 => 1

/-- The submode byte `xxFxxxxx` (R53); every value is legal. -/
def decodeSubmode (x : Byte) : Instr :=
  .submode (x.extractLsb' 6 2) (formOfBit (x.extractLsb' 5 1)) (x.extractLsb' 0 5)

/-- The coding-info byte `xeBBRRCC`, field by field (R54). -/
def decodeCodingInfo (x : Byte) : Instr :=
  .codingInfo (x.extractLsb' 7 1) (x.extractLsb' 6 1) (x.extractLsb' 4 2) (x.extractLsb' 2 2) (x.extractLsb' 0 2)

/-- The supported coding-info bytes by their low six bits: `0x00`, `0x01`, `0x04`, `0x05` (R54). -/
def decodeCodingInfoVariant (x : Byte) : Except Reject Instr :=
  let xe := x.extractLsb' 6 2
  let low := x.extractLsb' 0 6
  if low = 0x00 then .ok (.codingInfoMono37800 xe)
  else if low = 0x01 then .ok (.codingInfoStereo37800 xe)
  else if low = 0x04 then .ok (.codingInfoMono18900 xe)
  else if low = 0x05 then .ok (.codingInfoStereo18900 xe)
  else .error .unsupportedCoding

/-- The sound-parameter byte `ffffssss` (R58); every value is legal. -/
def decodeSoundParam (C : Cfg) (blk b : Nat) (x : Byte) : Except Reject Instr :=
  if subBlockExists C blk b then .ok (.soundParam blk b (x.extractLsb' 4 4) (x.extractLsb' 0 4))
  else .error .noSuchSubBlock

/-- The sound-parameter byte by its filter bits 5 to 4 (R93). -/
def decodeSoundParamVariant (C : Cfg) (blk b : Nat) (x : Byte) : Except Reject Instr :=
  let xx := x.extractLsb' 6 2
  let raw := x.extractLsb' 0 4
  let f := x.extractLsb' 4 2
  if subBlockExists C blk b then
    if f = 0 then .ok (.soundParamFilter0 blk b xx raw)
    else if f = 1 then .ok (.soundParamFilter1 blk b xx raw)
    else if f = 2 then .ok (.soundParamFilter2 blk b xx raw)
    else .ok (.soundParamFilter3 blk b xx raw)
  else .error .noSuchSubBlock

/-- The sample nibble `nnnn`, held in the low four bits (R59). -/
def decodeNibble (C : Cfg) (b : Nat) (filter raw : Nibble) (x : Byte) : Except Reject Instr :=
  if b < C.xaSubblocks then
    if x.extractLsb' 4 4 = 0 then .ok (.nibble b filter raw (x.extractLsb' 0 4)) else .error .notANibble
  else .error .noSuchSubBlock

/-- What a byte in a slot is. Only the items that name a place in the payload depend on the configuration (R6). -/
def decodeAtOf (C : Cfg) : Slot → Byte → Except Reject Instr
  | .cmd, x => decodeCmd x
  | .submode, x => .ok (decodeSubmode x)
  | .codingInfo, x => .ok (decodeCodingInfo x)
  | .codingInfoVariant, x => decodeCodingInfoVariant x
  | .soundParam blk b, x => decodeSoundParam C blk b x
  | .soundParamVariant blk b, x => decodeSoundParamVariant C blk b x
  | .nibble b filter raw, x => decodeNibble C b filter raw x

/-- What a byte in a slot is under the default configuration. -/
def decodeAt (p : Slot) (x : Byte) : Except Reject Instr := decodeAtOf Machine.cfg p x

/-- Where the byte of an instruction or item stands. -/
def slotOf : Instr → Slot
  | .xaClear => .cmd
  | .xaDecode => .cmd
  | .xaPop => .cmd
  | .xaMute => .cmd
  | .xaDemute => .cmd
  | .edcCheckMode1 => .cmd
  | .edcCheckMode2 => .cmd
  | .edcCheckAudio => .cmd
  | .submode _ _ _ => .submode
  | .codingInfo _ _ _ _ _ => .codingInfo
  | .codingInfoMono37800 _ => .codingInfoVariant
  | .codingInfoStereo37800 _ => .codingInfoVariant
  | .codingInfoMono18900 _ => .codingInfoVariant
  | .codingInfoStereo18900 _ => .codingInfoVariant
  | .soundParam blk b _ _ => .soundParam blk b
  | .soundParamFilter0 blk b _ _ => .soundParamVariant blk b
  | .soundParamFilter1 blk b _ _ => .soundParamVariant blk b
  | .soundParamFilter2 blk b _ _ => .soundParamVariant blk b
  | .soundParamFilter3 blk b _ _ => .soundParamVariant blk b
  | .nibble b filter raw _ => .nibble b filter raw

/-- A command word from its fields: `000mmooo` (R46). -/
def cmdWord (mode : BitVec 2) (op : BitVec 3) : Byte := (0#3 ++ mode) ++ op

/-- A coding-info byte from its fields `xeBBRRCC` (R54). -/
def codingInfoByte (x e : BitVec 1) (bb rr cc : BitVec 2) : Byte := (((x ++ e) ++ bb) ++ rr) ++ cc

/-- The byte of an instruction or item, from the same encoding tables. -/
def encode : Instr → Byte
  | .xaClear => cmdWord 0 0
  | .xaDecode => cmdWord 0 1
  | .xaPop => cmdWord 0 2
  | .xaMute => cmdWord 0 3
  | .xaDemute => cmdWord 0 4
  | .edcCheckMode1 => cmdWord 0 5
  | .edcCheckMode2 => cmdWord 1 5
  | .edcCheckAudio => cmdWord 2 5
  | .submode hi form lo => (hi ++ bitOfForm form) ++ lo
  | .codingInfo x e bb rr cc => codingInfoByte x e bb rr cc
  | .codingInfoMono37800 xe => xe ++ 0x00#6
  | .codingInfoStereo37800 xe => xe ++ 0x01#6
  | .codingInfoMono18900 xe => xe ++ 0x04#6
  | .codingInfoStereo18900 xe => xe ++ 0x05#6
  | .soundParam _ _ filter raw => filter ++ raw
  | .soundParamFilter0 _ _ xx raw => (xx ++ 0#2) ++ raw
  | .soundParamFilter1 _ _ xx raw => (xx ++ 1#2) ++ raw
  | .soundParamFilter2 _ _ xx raw => (xx ++ 2#2) ++ raw
  | .soundParamFilter3 _ _ xx raw => (xx ++ 3#2) ++ raw
  | .nibble _ _ _ n => 0#4 ++ n

/-- What one row of spec/opcode_table.json says of the bits: `width` bits, of which those of `mask` are fixed to
`value`. -/
structure TableRow where
  mnemonic : String
  width : Nat
  value : Byte
  mask : Byte
  deriving DecidableEq, Repr

/-- The row of spec/opcode_table.json an instruction or item is of. -/
def tableRow : Instr → TableRow
  | .xaClear => ⟨"XA.CLEAR", 8, 0x00, 0xFF⟩
  | .xaDecode => ⟨"XA.DECODE", 8, 0x01, 0xFF⟩
  | .xaPop => ⟨"XA.POP", 8, 0x02, 0xFF⟩
  | .xaMute => ⟨"XA.MUTE", 8, 0x03, 0xFF⟩
  | .xaDemute => ⟨"XA.DEMUTE", 8, 0x04, 0xFF⟩
  | .edcCheckMode1 => ⟨"EDC.CHECK", 8, 0x05, 0xFF⟩
  | .edcCheckMode2 => ⟨"EDC.CHECK", 8, 0x0D, 0xFF⟩
  | .edcCheckAudio => ⟨"EDC.CHECK", 8, 0x15, 0xFF⟩
  | .submode _ _ _ => ⟨"SUBMODE", 8, 0x00, 0x00⟩
  | .codingInfo _ _ _ _ _ => ⟨"CODINGINFO", 8, 0x00, 0x00⟩
  | .codingInfoMono37800 _ => ⟨"CODINGINFO_Mono_Hz37800", 8, 0x00, 0x3F⟩
  | .codingInfoStereo37800 _ => ⟨"CODINGINFO_Stereo_Hz37800", 8, 0x01, 0x3F⟩
  | .codingInfoMono18900 _ => ⟨"CODINGINFO_Mono_Hz18900", 8, 0x04, 0x3F⟩
  | .codingInfoStereo18900 _ => ⟨"CODINGINFO_Stereo_Hz18900", 8, 0x05, 0x3F⟩
  | .soundParam _ _ _ _ => ⟨"SOUNDPARAM", 8, 0x00, 0x00⟩
  | .soundParamFilter0 _ _ _ _ => ⟨"SOUNDPARAM_filter_0", 8, 0x00, 0x30⟩
  | .soundParamFilter1 _ _ _ _ => ⟨"SOUNDPARAM_filter_1", 8, 0x10, 0x30⟩
  | .soundParamFilter2 _ _ _ _ => ⟨"SOUNDPARAM_filter_2", 8, 0x20, 0x30⟩
  | .soundParamFilter3 _ _ _ _ => ⟨"SOUNDPARAM_filter_3", 8, 0x30, 0x30⟩
  | .nibble _ _ _ _ => ⟨"NIBBLE", 4, 0x0, 0x0⟩

/-- The operations of R3: what a command word can select. The other terms are data items. -/
def Instr.isOperation : Instr → Bool
  | .xaClear => true
  | .xaDecode => true
  | .xaPop => true
  | .xaMute => true
  | .xaDemute => true
  | .edcCheckMode1 => true
  | .edcCheckMode2 => true
  | .edcCheckAudio => true
  | .submode _ _ _ => false
  | .codingInfo _ _ _ _ _ => false
  | .codingInfoMono37800 _ => false
  | .codingInfoStereo37800 _ => false
  | .codingInfoMono18900 _ => false
  | .codingInfoStereo18900 _ => false
  | .soundParam _ _ _ _ => false
  | .soundParamFilter0 _ _ _ _ => false
  | .soundParamFilter1 _ _ _ _ => false
  | .soundParamFilter2 _ _ _ _ => false
  | .soundParamFilter3 _ _ _ _ => false
  | .nibble _ _ _ _ => false

/-- The command word the host's table word is, all bits above `nbits` zero. An instruction is one byte (R46). -/
def tableCommand (nbits w : Nat) : Byte := BitVec.ofNat 8 (w % 2 ^ nbits)

/-- What the decoder reads from a table word presented on the command port, the only place an instruction is taken
from. -/
def decodeTableWord (nbits w : Nat) : Option Instr :=
  match decodeCmd (tableCommand nbits w) with
  | .ok i => some i
  | .error _ => none

end Sys2Proof
end

