-- ==== Sys2Proof/Machine/State.lean ====
section
/-! DEFINITION. The state of the block (10_state.md R10), the operand and result ports (R11), the host's part of the
machine (R158), and reset (R26, R145). -/

namespace Sys2Proof.Machine

/-- The sector space (R30) as (offset, byte) pairs; a byte that is not listed is `0x00` (log 3). -/
abbrev Memory := List Host.Cell

/-- The canonical form: offsets strictly rising, every offset inside the sector (R31), no listed byte `0x00`. -/
abbrev Memory.wfOf (C : Cfg) (m : Memory) : Prop :=
  m.Pairwise (fun a b => a.1 < b.1) ∧ ∀ c ∈ m, c.1 < C.sectorBytes ∧ c.2 ≠ 0#8

/-- The canonical form under the default configuration. -/
abbrev Memory.wf (m : Memory) : Prop := Memory.wfOf cfg m

/-- The state of one channel (R10). -/
structure ChanState where
  /-- `OLD[c]`: the last decoded sample (R13). -/
  old : Sample
  /-- `OLDER[c]`: the one before it (R13). -/
  older : Sample
  /-- `RING[c]`: the last 32 samples pushed (R14). -/
  ring : List Sample
  /-- `P[c]`: where the next push writes (R15). -/
  p : Nat
  /-- `SIXSTEP[c]`: pushes left until the next outputs (R16). -/
  sixstep : Nat
  /-- `Q[c]`: the output queue, head first (R17). -/
  q : List Sample
  deriving DecidableEq, Repr

/-- A channel after reset and after `XA.CLEAR` (R26, R120). -/
def ChanState.cleared (C : Cfg) : ChanState where
  old := 0
  older := 0
  ring := List.replicate C.ringEntries 0
  p := 0
  sixstep := C.sixstepPeriod
  q := []

/-- What the host presents with one operation: the command word and the operand ports (R11, R46). -/
structure Request where
  cmd : Byte
  track : Byte
  sectorNo : Word
  sector : Memory
  deriving DecidableEq, Repr

/-- What the host may do between operations (R158). -/
inductive HostEvent where
  /-- Issue an operation. -/
  | issue (r : Request)
  /-- Reset the block (R145). -/
  | reset
  deriving DecidableEq, Repr

/-- The three errors an operation can end with (R130), with what each records. -/
inductive OpError where
  | edcMismatch (track : Byte) (sectorNo expected actual : Word)
  | xaUnsupportedCoding (codingInfo : Byte)
  | illegalCommand (cmd : Byte)
  deriving DecidableEq, Repr

/-- The result of an operation (R67). -/
inductive OpResult where
  | done
  | decoded (n : Nat)
  | pair (l r : Sample)
  | valid
  | skipped
  | error (e : OpError)
  deriving DecidableEq, Repr

/-- Where the machine stops on a fault. The block itself never does (R144). -/
inductive Fault where
  /-- Raised by the sound-parameter items when the term places them outside the blocks and sub-blocks of a sector. No
  sector holds such an item and no operation reads one (R31), so the stop is safe. -/
  | offsetOutsideSector
  deriving DecidableEq, Repr

/-- Where the machine has no step. -/
inductive Refusal where
  /-- Raised by `exec` for an instruction without a meaning; safe. No arm raises it. -/
  | notModelled (mnemonic : String)
  /-- Raised by the decoding of a sector when the configuration has a finite `QUEUE_CAP` and a queue would exceed it, as
  R112 asks; safe. The default configuration has no capacity and never raises it. -/
  | queueCapExceeded
  deriving DecidableEq, Repr

/-- The machine. The first five fields are the whole state of the block (R10). The ports are what an operation reads and
answers on (R11), and no operation depends on what an earlier one left there; `pending` is the model's own (log 1). -/
structure State where
  /-- Channel `L` (R10). -/
  chL : ChanState
  /-- Channel `R` (R10). -/
  chR : ChanState
  /-- `MODE_CH` (R18). -/
  modeCh : ChMode
  /-- `MODE_RATE` (R18). -/
  modeRate : Rate
  /-- `MUTE` (R19). -/
  mute : Bool
  /-- The operand ports of the operation in course (R11). -/
  port : Request
  /-- What the host does next, in order (R38, R158). -/
  pending : List HostEvent
  /-- The results given so far, oldest first (R67, R158); the last is the result port (R11). -/
  results : List OpResult
  deriving DecidableEq, Repr

/-- The operand ports before any operation (log 2). -/
def Request.idle : Request where
  cmd := 0
  track := 0
  sectorNo := 0
  sector := []

/-- The machine right after reset under a configuration (R26, R145): nothing issued yet, nothing answered yet. -/
def State.resetOf (C : Cfg) : State where
  chL := ChanState.cleared C
  chR := ChanState.cleared C
  modeCh := .mono
  modeRate := .hz37800
  mute := C.muteReset
  port := Request.idle
  pending := []
  results := []

/-- The machine right after reset under the default configuration. -/
def State.reset : State := State.resetOf cfg

end Sys2Proof.Machine
end

