-- ==== Sys2Proof/Machine/Flags.lean ====
section
/-! DEFINITION. The block's one flag, `MUTE` (10_state.md R19): its two writers and its one reader. No operation sets it as
a side effect, and saturation leaves no flag (R19, R96). -/

namespace Sys2Proof.Machine

/-- `MUTE <- v` (R124, R125). -/
def State.setMute (s : State) (v : Bool) : State := { s with mute := v }

/-- What a popped pair is returned as: silence while `MUTE` is set (R123). -/
def mutePair (mute : Bool) (l r : Sample) : OpResult := if mute then .pair 0 0 else .pair l r

end Sys2Proof.Machine
end

