-- ==== Sys2Proof/Machine/Operands.lean ====
section
/-! DEFINITION. Every operand form (30_encoding.md R66): the bytes of the sector, the stored checksum, the submode and
coding-info bytes, the sound-parameter bytes and the sample nibbles; and the arithmetic primitives of R8. -/

namespace Sys2Proof.Machine

/-- `sext_4(n)` (R8). -/
def sext4 (n : Nibble) : Int := n.toInt

/-- `clamp16(v)` (R8). -/
def clamp16 (v : Int) : Int := if v < -32768 then -32768 else if v > 32767 then 32767 else v

/-- A clamped integer as an `i16`: the only narrowing of the decoder (R96). -/
def toSample (v : Int) : Sample := BitVec.ofInt 16 (clamp16 v)

/-- `div64(x)` (R94): rounds as `XA_DIV_MODE` says. -/
def div64 (C : Cfg) (x : Int) : Int :=
  match C.xaDivMode with
  | .trunc => x.tdiv 64
  | .floor => x.fdiv 64

/-- `S[a]` (R8). -/
def Memory.read (m : Memory) (a : Nat) : Byte := (List.lookup a m).getD 0

/-- `MemRead(a, n)` as a list of bytes (R8). -/
def Memory.readBytes (m : Memory) (a n : Nat) : List Byte := (List.range n).map fun i => m.read (a + i)

/-- `MemRead(a, 4)` as a `u32`, least significant byte first (R33). -/
def Memory.read32 (m : Memory) (a : Nat) : Word :=
  ((m.read (a + 3) ++ m.read (a + 2)) ++ m.read (a + 1)) ++ m.read a

/-- The form the sector's own submode byte selects: bit 5 of `S[OFF_SUBMODE]` (R52, R53). -/
def sectorForm (C : Cfg) (m : Memory) : Form := formOfBit ((m.read C.offSubmode).extractLsb' 5 1)

/-- The coding-info byte `S[OFF_CODINGINFO]` (R52). -/
def sectorCodingInfo (C : Cfg) (m : Memory) : Byte := m.read C.offCodingInfo

/-- The modes a coding-info byte selects, or `none` where it is not supported (R54, R86, R87). Bits 7 and 6 are
ignored (R103). -/
def codingModes (ci : Byte) : Option (ChMode × Rate) :=
  let cc := ci.extractLsb' 0 2
  let rr := ci.extractLsb' 2 2
  let bb := ci.extractLsb' 4 2
  if bb = 0 then
    if cc = 0 then
      if rr = 0 then some (.mono, .hz37800) else if rr = 1 then some (.mono, .hz18900) else none
    else if cc = 1 then
      if rr = 0 then some (.stereo, .hz37800) else if rr = 1 then some (.stereo, .hz18900) else none
    else none
  else none

/-- `base(blk)`: the sector offset of block `blk` (R55). -/
def blockBase (C : Cfg) (blk : Nat) : Nat := C.offXaPayload + C.xaBlockBytes * blk

/-- The sector offset of the sound-parameter byte of a sub-block (R57). -/
def soundParamOffset (C : Cfg) (blk b : Nat) : Nat := blockBase C blk + C.offSoundParam + b

/-- The sound-parameter byte of a sub-block (R57). -/
def sectorSoundParam (C : Cfg) (m : Memory) (blk b : Nat) : Byte := m.read (soundParamOffset C blk b)

/-- The raw shift `sp[3:0]` (R58). -/
def rawShift (sp : Byte) : Nibble := sp.extractLsb' 0 4

/-- The filter nibble `sp[7:4]` (R58). -/
def filterNibble (sp : Byte) : Nibble := sp.extractLsb' 4 4

/-- The sector offset of the byte that holds sample `j` of a sub-block (R59). -/
def nibbleOffset (C : Cfg) (blk b j : Nat) : Nat := blockBase C blk + C.xaHeaderBytes + 4 * j + b / 2

/-- The half of a data byte that belongs to sub-block `b`: low for an even one, high for an odd one (R59). -/
def nibbleHalf (b : Nat) (x : Byte) : Nibble := if b % 2 = 0 then x.extractLsb' 0 4 else x.extractLsb' 4 4

/-- Sample `j` of sub-block `b` of block `blk` (R59). -/
def sectorNibble (C : Cfg) (m : Memory) (blk b j : Nat) : Nibble := nibbleHalf b (m.read (nibbleOffset C blk b j))

/-- The channel a sub-block belongs to: `L` in mono; in stereo the even ones `L`, the odd ones `R` (R60, R90, R91). -/
def chanOf (mode : ChMode) (b : Nat) : Chan :=
  match mode with
  | .mono => .L
  | .stereo => if b % 2 = 0 then .L else .R

/-- The checksum parts of a sector: the digest window `lo..hi`, the checksum field at `field`, and whether an all-zero
field skips the check (R71). -/
structure Window where
  lo : Nat
  hi : Nat
  field : Nat
  skipZero : Bool
  deriving DecidableEq, Repr

/-- The window of a Mode1 sector (R71, R73). -/
def mode1Window : Window := ⟨0, 2064, 2064, false⟩

/-- The window of a Mode2 sector by its form (R71, R74, R75). -/
def mode2Window : Form → Window
  | .form1 => ⟨16, 2072, 2072, false⟩
  | .form2 => ⟨16, 2348, 2348, true⟩

end Sys2Proof.Machine
end

