-- ==== Sys2Proof/Machine/Ops.lean ====
section
/-! DEFINITION. The named operations the meanings are written over: the accessors of State, the host's side of the sector,
ending an operation with a result or an error, the checksum, and the procedures of `XA.DECODE` and `XA.POP`. Each takes
the configuration record where the spec's rule does (R6). -/

namespace Sys2Proof.Machine

/-! ### Accessors -/

/-- The state of a channel. -/
def State.chan (s : State) : Chan → ChanState
  | .L => s.chL
  | .R => s.chR

/-- Writes the state of a channel. -/
def State.setChan (s : State) (c : Chan) (x : ChanState) : State :=
  match c with
  | .L => { s with chL := x }
  | .R => { s with chR := x }

/-- Writes `MODE_CH` and `MODE_RATE` (R86). -/
def State.setModes (s : State) (ch : ChMode) (rate : Rate) : State := { s with modeCh := ch, modeRate := rate }

/-- The host's next operation is taken: its operands stand on the ports (R11, R46). -/
def State.accept (s : State) (r : Request) (rest : List HostEvent) : State := { s with port := r, pending := rest }

/-! ### The sector, on the host's side (the block has no MemWrite, R8 and R30) -/

/-- The host puts byte `v` at offset `a`, keeping the canonical form; a write checks the offset (R31). -/
def Memory.insert (a : Nat) (v : Byte) : Memory → Memory
  | [] => if v = 0#8 then [] else [(a, v)]
  | (k, x) :: rest =>
    if a < k then (if v = 0#8 then (k, x) :: rest else (a, v) :: (k, x) :: rest)
    else if a = k then (if v = 0#8 then rest else (a, v) :: rest)
    else (k, x) :: Memory.insert a v rest

/-- A byte of the sector as the host presents it; an offset the sector does not have is no byte (R31). -/
def Memory.writeOf (C : Cfg) (m : Memory) (a : Nat) (v : Byte) : Memory :=
  if a < C.sectorBytes then Memory.insert a v m else m

/-- A write under the default configuration. -/
def Memory.write (m : Memory) (a : Nat) (v : Byte) : Memory := Memory.writeOf cfg m a v

/-- The cells of a list of bytes that begins at offset `a`. -/
def Memory.cellsFrom (a : Nat) : List Byte → Memory
  | [] => []
  | x :: xs => if x = 0#8 then Memory.cellsFrom (a + 1) xs else (a, x) :: Memory.cellsFrom (a + 1) xs

/-- The sector whose bytes are given, the first at offset 0; at most `SECTOR_BYTES` of them (R30). -/
def Memory.ofBytesOf (C : Cfg) (xs : List Byte) : Memory := Memory.cellsFrom 0 (xs.take C.sectorBytes)

/-- The sector of the given bytes under the default configuration. -/
def Memory.ofBytes (xs : List Byte) : Memory := Memory.ofBytesOf cfg xs

/-! ### Ending an operation -/

/-- `return v`: the operation ends with result `v` (R8, R67). -/
def State.post (s : State) (v : OpResult) : State := { s with results := s.results ++ [v] }

/-- `raise e`: taking an exception (R8, R138). The operation ends with `Error(e)` and changes no state (R131): nothing is
saved, no mode changes, control goes nowhere, nothing is latched. There is no return from it: the next operation is
accepted at once (R139). -/
def State.raise (s : State) (e : OpError) : State := s.post (.error e)

/-- The code of an error (R130). -/
def OpError.code : OpError → Nat
  | .edcMismatch _ _ _ _ => 1
  | .xaUnsupportedCoding _ => 2
  | .illegalCommand _ => 3

/-- An illegal command word (R49, R134): the error carries the word. -/
def illegalCommand (s : State) : State := s.raise (.illegalCommand s.port.cmd)

/-- Reset (R145): every element of the block at its value of R26, and the ports idle. What the host will do next and what
it has been answered are the host's. -/
def resetBlock (C : Cfg) (s : State) : State := { State.resetOf C with pending := s.pending, results := s.results }

/-- With no operation issued the block does nothing: it has no pending work (R157) and no background execution (R12). -/
def idle (s : State) : State := s

/-! ### The checksum -/

/-- One bit of the checksum (R76). -/
def crcBit (C : Cfg) (crc : Word) : Word := if crc.getLsbD 0 then (crc >>> 1) ^^^ C.edcPoly else crc >>> 1

/-- Eight bits of the checksum (R76). -/
def crcBits8 (C : Cfg) (crc : Word) : Word :=
  crcBit C (crcBit C (crcBit C (crcBit C (crcBit C (crcBit C (crcBit C (crcBit C crc)))))))

/-- One byte of the checksum, least significant bit first (R76). -/
def crcByte (C : Cfg) (crc : Word) (x : Byte) : Word := crcBits8 C (crc ^^^ x.setWidth 32)

/-- `EDC(bytes)` (R76), in ascending order of offset. -/
def edc (C : Cfg) (bytes : List Byte) : Word := bytes.foldl (crcByte C) C.edcInit ^^^ C.edcXorOut

/-- `T[i]`, the entry of the checksum table (R77). -/
def crcTable (C : Cfg) (i : Byte) : Word := crcBits8 C (i.setWidth 32)

/-- One byte of the checksum by the table (R77). -/
def crcTableByte (C : Cfg) (crc : Word) (x : Byte) : Word :=
  (crc >>> 8) ^^^ crcTable C ((crc ^^^ x.setWidth 32).extractLsb' 0 8)

/-- The table form of the checksum (R77). -/
def edcByTable (C : Cfg) (bytes : List Byte) : Word := bytes.foldl (crcTableByte C) C.edcInit ^^^ C.edcXorOut

/-- The checksum computed over a window of the sector (R70). -/
def windowEdc (C : Cfg) (m : Memory) (w : Window) : Word := edc C (m.readBytes w.lo (w.hi - w.lo))

/-- The check of one window of the sector on the port (R70): the zero-field skip (R75), then the comparison (R79). -/
def checkWindow (C : Cfg) (w : Window) (s : State) : State :=
  let stored := s.port.sector.read32 w.field
  if w.skipZero && stored == 0 then s.post .skipped
  else
    let computed := windowEdc C s.port.sector w
    if computed = stored then s.post .valid
    else s.raise (.edcMismatch s.port.track s.port.sectorNo stored computed)

/-! ### The resampler (42_xa_resample.md) -/

/-- The ring entry tap `i` meets: `RING[c][(P[c] - 1 - i) mod 32]` (R109). -/
def tapSample (C : Cfg) (x : ChanState) (i : Nat) : Sample :=
  x.ring.getD (((x.p : Int) - 1 - i) % C.ringEntries).toNat 0

/-- The sum over the taps, exact (R109, R110). -/
def zigzagSum (C : Cfg) (x : ChanState) (k : Nat) : Int :=
  (List.range C.zigzagTaps).foldl (fun sum i => sum + (tapSample C x i).toInt * C.zigzag k i) 0

/-- `ZigZag(c, k)`: the sum shifted right by 15, rounding down, and then clamped (R109, R110). -/
def zigzagOutput (C : Cfg) (x : ChanState) (k : Nat) : Sample := toSample (zigzagSum C x k / 2 ^ 15)

/-- The outputs of one emitting push, in order of phase, all from the same ring (R108). -/
def zigzagOutputs (C : Cfg) (x : ChanState) : List Sample := (List.range C.zigzagPhases).map (zigzagOutput C x)

/-- `push_back` of each sample in turn. -/
def ChanState.enqueue (x : ChanState) (ys : List Sample) : ChanState := { x with q := x.q ++ ys }

/-- `Emit(c, y)` for each output in turn: to the channel's queue in stereo, to both queues in mono (R111). -/
def emit (c : Chan) (ys : List Sample) (s : State) : State :=
  match s.modeCh with
  | .stereo => s.setChan c ((s.chan c).enqueue ys)
  | .mono => { s with chL := s.chL.enqueue ys, chR := s.chR.enqueue ys }

/-- The ring write, the cursor's advance and the counter's step of a push (R106). -/
def ChanState.advance (C : Cfg) (x : ChanState) (y : Sample) : ChanState :=
  { x with ring := x.ring.set x.p y, p := (x.p + 1) % C.ringEntries, sixstep := x.sixstep - 1 }

/-- `Push(c, y)` (R106): on the push that takes the counter to 0 it is reloaded and the seven outputs are emitted. -/
def push (C : Cfg) (c : Chan) (y : Sample) (s : State) : State :=
  let x := (s.chan c).advance C y
  if x.sixstep = 0 then
    emit c (zigzagOutputs C x) (s.setChan c { x with sixstep := C.sixstepPeriod })
  else s.setChan c x

/-- `Feed(c, y)` (R98): at 18900 Hz the same value is pushed twice. -/
def feed (C : Cfg) (c : Chan) (y : Sample) (s : State) : State :=
  match s.modeRate with
  | .hz37800 => push C c y s
  | .hz18900 => push C c y (push C c y s)

/-! ### The decoder (41_xa_decode.md) -/

/-- The two-term prediction from the history (R94). -/
def predict (C : Cfg) (f : Int × Int) (x : ChanState) : Int := div64 C (f.1 * x.old.toInt + f.2 * x.older.toInt + 32)

/-- The decoded sample: the shifted nibble plus the prediction, clamped (R94). -/
def decodedSample (C : Cfg) (f : Int × Int) (eff : Nat) (n : Nibble) (x : ChanState) : Sample :=
  toSample (sext4 n * 2 ^ eff + predict C f x)

/-- The history after a sample (R95). -/
def ChanState.remember (x : ChanState) (y : Sample) : ChanState := { x with old := y, older := x.old }

/-- One sample of a sub-block (R94), under the filter nibble and raw shift of its sound-parameter byte (R92, R93). -/
def decodeSample (C : Cfg) (c : Chan) (filter raw : Nibble) (n : Nibble) (s : State) : State :=
  let y := decodedSample C (C.xaFilter filter) (C.xaEffShift raw) n (s.chan c)
  feed C c y (s.setChan c ((s.chan c).remember y))

/-- `DecodeSubBlock(c, blk, b)` (R94), its sound-parameter fields given: the samples in ascending order. -/
def decodeSamples (C : Cfg) (c : Chan) (blk b : Nat) (filter raw : Nibble) (s : State) : State :=
  (List.range C.xaSamples).foldl
    (fun s j => decodeSample C c filter raw (sectorNibble C s.port.sector blk b j) s) s

/-- One sub-block, its sound-parameter byte read once from the sector (R57, R95). -/
def decodeSubBlock (C : Cfg) (blk b : Nat) (s : State) : State :=
  let sp := sectorSoundParam C s.port.sector blk b
  decodeSamples C (chanOf s.modeCh b) blk b (filterNibble sp) (rawShift sp) s

/-- One block: its sub-blocks in ascending order, which is the order of R90 in mono and of R91 in stereo. -/
def decodeBlock (C : Cfg) (blk : Nat) (s : State) : State :=
  (List.range C.xaSubblocks).foldl (fun s b => decodeSubBlock C blk b s) s

/-- The blocks in ascending order (R89). -/
def decodeBlocks (C : Cfg) (s : State) : State := (List.range C.xaBlocks).foldl (fun s blk => decodeBlock C blk s) s

/-- Whether both queues are within the capacity (R112). -/
def queuesWithin (cap : Nat) (s : State) : Bool := decide (s.chL.q.length ≤ cap) && decide (s.chR.q.length ≤ cap)

/-- `XA.DECODE` from the point where the modes are known (R85): write them, decode the blocks, answer the number of
samples appended to `Q[L]` (R100). A finite `QUEUE_CAP` that would be exceeded is refused (R112). -/
def decodeSector (C : Cfg) (ch : ChMode) (rate : Rate) (s : State) : Host.Outcome State Fault Refusal :=
  let s1 := decodeBlocks C (s.setModes ch rate)
  let s2 := s1.post (.decoded (s1.chL.q.length - s.chL.q.length))
  match C.queueCap with
  | none => .next s2
  | some cap => if queuesWithin cap s1 then .next s2 else .refused .queueCapExceeded

/-- `XA.DECODE` from the point where the coding-info byte is read (R85 to R87). -/
def decodeWithCoding (C : Cfg) (ci : Byte) (s : State) : Host.Outcome State Fault Refusal :=
  match codingModes ci with
  | some (ch, rate) => decodeSector C ch rate s
  | none => .next (s.raise (.xaUnsupportedCoding ci))

/-- A sub-block decoded under the given sound-parameter fields, where the sector has such a sub-block (R55 to R57). -/
def subBlockItem (C : Cfg) (blk b : Nat) (filter raw : Nibble) (s : State) : Host.Outcome State Fault Refusal :=
  if blk < C.xaBlocks ∧ b < C.xaSubblocks then .next (decodeSamples C (chanOf s.modeCh b) blk b filter raw s)
  else .fault .offsetOutsideSector

/-! ### Playback (43_xa_control.md) -/

/-- `XA.CLEAR`: both channels as after reset; not `MUTE`, not the modes (R120). -/
def clearPlayback (C : Cfg) (s : State) : State := { s with chL := ChanState.cleared C, chR := ChanState.cleared C }

/-- `pop_front`: the queue without its head; an empty queue stays empty (R121). -/
def ChanState.dequeue (x : ChanState) : ChanState := { x with q := x.q.tail }

/-- The sample at the head of a queue, 0 on an empty one (R121, R122). -/
def ChanState.head (x : ChanState) : Sample := x.q.headD 0

/-- `XA.POP` (R121): silence and no change on empty queues (R122); otherwise the pair is removed, and returned unless the
block is muted (R123). -/
def popPair (s : State) : State :=
  if s.chL.q = [] ∧ s.chR.q = [] then s.post (.pair 0 0)
  else
    State.post { s with chL := s.chL.dequeue, chR := s.chR.dequeue } (mutePair s.mute s.chL.head s.chR.head)

/-! ### One step, for any configuration (R6) and any meaning of the instructions -/

/-- An operation issued by the host (R38): its operands stand on the ports, its command word is decoded first (R137), and
the operation runs, or the illegal word is answered by an error (R49). -/
def issueBy (run : Instr → State → Host.Outcome State Fault Refusal) (r : Request) (rest : List HostEvent) (s : State) :
    Host.Outcome State Fault Refusal :=
  match decodeCmd r.cmd with
  | .ok i => run i (s.accept r rest)
  | .error _ => .next (illegalCommand (s.accept r rest))

/-- One step (R38): one operation, or one reset (R145); with nothing pending the block does nothing (R157). -/
def stepBy (C : Cfg) (run : Instr → State → Host.Outcome State Fault Refusal) (s : State) :
    Host.Outcome State Fault Refusal :=
  match s.pending with
  | [] => .next (idle s)
  | .reset :: rest => .next (resetBlock C { s with pending := rest })
  | .issue r :: rest => issueBy run r rest s

end Sys2Proof.Machine
end

