-- ==== Sys2Proof/Machine/EdcCheck.lean ====
section
/-! DEFINITION. The meanings of `EDC.CHECK` (40_edc.md) and of the submode byte, the item of the sector it reads (log 5). -/

namespace Sys2Proof.Machine

/-- `EDC.CHECK` with mode `Mode1` (R70, R73). -/
def execEdcCheckMode1Of (C : Cfg) (s : State) : Host.Outcome State Fault Refusal := .next (checkWindow C mode1Window s)

/-- The same under the default configuration. -/
def execEdcCheckMode1 (s : State) : Host.Outcome State Fault Refusal := execEdcCheckMode1Of cfg s

/-- `EDC.CHECK` with mode `Mode2`: the sector's submode byte selects the form (R70, R74, R75). -/
def execEdcCheckMode2Of (C : Cfg) (s : State) : Host.Outcome State Fault Refusal :=
  .next (checkWindow C (mode2Window (sectorForm C s.port.sector)) s)

/-- The same under the default configuration. -/
def execEdcCheckMode2 (s : State) : Host.Outcome State Fault Refusal := execEdcCheckMode2Of cfg s

/-- `EDC.CHECK` with mode `Audio`: no check, and no byte read (R80). -/
def execEdcCheckAudio (s : State) : Host.Outcome State Fault Refusal := .next (s.post .skipped)

/-- A submode byte: the Mode2 check of the sector on the port under the form of bit 5; the other bits are ignored
(R53, R71). -/
def execSubmodeOf (C : Cfg) (_hi : BitVec 2) (form : Form) (_lo : BitVec 5) (s : State) : Host.Outcome State Fault Refusal :=
  .next (checkWindow C (mode2Window form) s)

/-- The same under the default configuration. -/
def execSubmode (hi : BitVec 2) (form : Form) (lo : BitVec 5) (s : State) : Host.Outcome State Fault Refusal :=
  execSubmodeOf cfg hi form lo s

end Sys2Proof.Machine
end

