-- ==== Sys2Proof/Machine/XaControl.lean ====
section
/-! DEFINITION. The meanings of `XA.CLEAR`, `XA.POP`, `XA.MUTE`, `XA.DEMUTE` (43_xa_control.md). -/

namespace Sys2Proof.Machine

/-- `XA.CLEAR` (R120). -/
def execXaClearOf (C : Cfg) (s : State) : Host.Outcome State Fault Refusal := .next ((clearPlayback C s).post .done)

/-- The same under the default configuration. -/
def execXaClear (s : State) : Host.Outcome State Fault Refusal := execXaClearOf cfg s

/-- `XA.POP` (R121 to R123). -/
def execXaPop (s : State) : Host.Outcome State Fault Refusal := .next (popPair s)

/-- `XA.MUTE` (R124). -/
def execXaMute (s : State) : Host.Outcome State Fault Refusal := .next ((s.setMute true).post .done)

/-- `XA.DEMUTE` (R125). -/
def execXaDemute (s : State) : Host.Outcome State Fault Refusal := .next ((s.setMute false).post .done)

end Sys2Proof.Machine
end

