-- ==== Sys2Proof/Machine/XaDecode.lean ====
section
/-! DEFINITION. The meaning of `XA.DECODE` (41_xa_decode.md, 42_xa_resample.md) and of the items of the sector it reads:
what `XA.DECODE` does on reading the item (log 5). -/

namespace Sys2Proof.Machine

/-- `XA.DECODE` of the sector on the port (R85). -/
def execXaDecodeOf (C : Cfg) (s : State) : Host.Outcome State Fault Refusal :=
  decodeWithCoding C (sectorCodingInfo C s.port.sector) s

/-- The same under the default configuration. -/
def execXaDecode (s : State) : Host.Outcome State Fault Refusal := execXaDecodeOf cfg s

/-- A coding-info byte (R54): the modes and the decoding they select, or the error (R86, R87). -/
def execCodingInfoOf (C : Cfg) (x e : BitVec 1) (bb rr cc : BitVec 2) (s : State) : Host.Outcome State Fault Refusal :=
  decodeWithCoding C (codingInfoByte x e bb rr cc) s

/-- The same under the default configuration. -/
def execCodingInfo (x e : BitVec 1) (bb rr cc : BitVec 2) (s : State) : Host.Outcome State Fault Refusal :=
  execCodingInfoOf cfg x e bb rr cc s

/-- Coding-info `xx000000`: mono at 37800 Hz; bits 7 and 6 are ignored (R86, R103). -/
def execCodingInfoMono37800Of (C : Cfg) (_xe : BitVec 2) (s : State) : Host.Outcome State Fault Refusal :=
  decodeSector C .mono .hz37800 s

/-- The same under the default configuration. -/
def execCodingInfoMono37800 (xe : BitVec 2) (s : State) : Host.Outcome State Fault Refusal :=
  execCodingInfoMono37800Of cfg xe s

/-- Coding-info `xx000001`: stereo at 37800 Hz; bits 7 and 6 are ignored (R86, R103). -/
def execCodingInfoStereo37800Of (C : Cfg) (_xe : BitVec 2) (s : State) : Host.Outcome State Fault Refusal :=
  decodeSector C .stereo .hz37800 s

/-- The same under the default configuration. -/
def execCodingInfoStereo37800 (xe : BitVec 2) (s : State) : Host.Outcome State Fault Refusal :=
  execCodingInfoStereo37800Of cfg xe s

/-- Coding-info `xx000100`: mono at 18900 Hz; bits 7 and 6 are ignored (R86, R103). -/
def execCodingInfoMono18900Of (C : Cfg) (_xe : BitVec 2) (s : State) : Host.Outcome State Fault Refusal :=
  decodeSector C .mono .hz18900 s

/-- The same under the default configuration. -/
def execCodingInfoMono18900 (xe : BitVec 2) (s : State) : Host.Outcome State Fault Refusal :=
  execCodingInfoMono18900Of cfg xe s

/-- Coding-info `xx000101`: stereo at 18900 Hz; bits 7 and 6 are ignored (R86, R103). -/
def execCodingInfoStereo18900Of (C : Cfg) (_xe : BitVec 2) (s : State) : Host.Outcome State Fault Refusal :=
  decodeSector C .stereo .hz18900 s

/-- The same under the default configuration. -/
def execCodingInfoStereo18900 (xe : BitVec 2) (s : State) : Host.Outcome State Fault Refusal :=
  execCodingInfoStereo18900Of cfg xe s

/-- A sound-parameter byte (R58): the samples of its sub-block decoded under it (R92 to R95). -/
def execSoundParamOf (C : Cfg) (blk b : Nat) (filter raw : Nibble) (s : State) : Host.Outcome State Fault Refusal :=
  subBlockItem C blk b filter raw s

/-- The same under the default configuration. -/
def execSoundParam (blk b : Nat) (filter raw : Nibble) (s : State) : Host.Outcome State Fault Refusal :=
  execSoundParamOf cfg blk b filter raw s

/-- A sound-parameter byte `xx00ssss`: entry 0 of the filter table (R93). -/
def execSoundParamFilter0Of (C : Cfg) (blk b : Nat) (xx : BitVec 2) (raw : Nibble) (s : State) :
    Host.Outcome State Fault Refusal :=
  subBlockItem C blk b (xx ++ 0#2) raw s

/-- The same under the default configuration. -/
def execSoundParamFilter0 (blk b : Nat) (xx : BitVec 2) (raw : Nibble) (s : State) :
    Host.Outcome State Fault Refusal :=
  execSoundParamFilter0Of cfg blk b xx raw s

/-- A sound-parameter byte `xx01ssss`: entry 1 of the filter table (R93). -/
def execSoundParamFilter1Of (C : Cfg) (blk b : Nat) (xx : BitVec 2) (raw : Nibble) (s : State) :
    Host.Outcome State Fault Refusal :=
  subBlockItem C blk b (xx ++ 1#2) raw s

/-- The same under the default configuration. -/
def execSoundParamFilter1 (blk b : Nat) (xx : BitVec 2) (raw : Nibble) (s : State) :
    Host.Outcome State Fault Refusal :=
  execSoundParamFilter1Of cfg blk b xx raw s

/-- A sound-parameter byte `xx10ssss`: entry 2 of the filter table (R93). -/
def execSoundParamFilter2Of (C : Cfg) (blk b : Nat) (xx : BitVec 2) (raw : Nibble) (s : State) :
    Host.Outcome State Fault Refusal :=
  subBlockItem C blk b (xx ++ 2#2) raw s

/-- The same under the default configuration. -/
def execSoundParamFilter2 (blk b : Nat) (xx : BitVec 2) (raw : Nibble) (s : State) :
    Host.Outcome State Fault Refusal :=
  execSoundParamFilter2Of cfg blk b xx raw s

/-- A sound-parameter byte `xx11ssss`: entry 3 of the filter table (R93). -/
def execSoundParamFilter3Of (C : Cfg) (blk b : Nat) (xx : BitVec 2) (raw : Nibble) (s : State) :
    Host.Outcome State Fault Refusal :=
  subBlockItem C blk b (xx ++ 3#2) raw s

/-- The same under the default configuration. -/
def execSoundParamFilter3 (blk b : Nat) (xx : BitVec 2) (raw : Nibble) (s : State) :
    Host.Outcome State Fault Refusal :=
  execSoundParamFilter3Of cfg blk b xx raw s

/-- A sample nibble (R59): one decoded sample on the channel of its sub-block (R94). -/
def execNibbleOf (C : Cfg) (b : Nat) (filter raw n : Nibble) (s : State) : Host.Outcome State Fault Refusal :=
  .next (decodeSample C (chanOf s.modeCh b) filter raw n s)

/-- The same under the default configuration. -/
def execNibble (b : Nat) (filter raw n : Nibble) (s : State) : Host.Outcome State Fault Refusal :=
  execNibbleOf cfg b filter raw n s

end Sys2Proof.Machine
end

