-- ==== Sys2Proof/Machine/Dispatch.lean ====
section
/-! DEFINITION. `exec`: one arm per constructor of `Instr`, each one direct call of its meaning. -/

namespace Sys2Proof.Machine

def exec (i : Instr) (s : State) : Host.Outcome State Fault Refusal :=
  match i with
  | .xaClear => Sys2Proof.Machine.execXaClear s
  | .xaDecode => Sys2Proof.Machine.execXaDecode s
  | .xaPop => Sys2Proof.Machine.execXaPop s
  | .xaMute => Sys2Proof.Machine.execXaMute s
  | .xaDemute => Sys2Proof.Machine.execXaDemute s
  | .edcCheckMode1 => Sys2Proof.Machine.execEdcCheckMode1 s
  | .edcCheckMode2 => Sys2Proof.Machine.execEdcCheckMode2 s
  | .edcCheckAudio => Sys2Proof.Machine.execEdcCheckAudio s
  | .submode hi form lo => Sys2Proof.Machine.execSubmode hi form lo s
  | .codingInfo x e bb rr cc => Sys2Proof.Machine.execCodingInfo x e bb rr cc s
  | .codingInfoMono37800 xe => Sys2Proof.Machine.execCodingInfoMono37800 xe s
  | .codingInfoStereo37800 xe => Sys2Proof.Machine.execCodingInfoStereo37800 xe s
  | .codingInfoMono18900 xe => Sys2Proof.Machine.execCodingInfoMono18900 xe s
  | .codingInfoStereo18900 xe => Sys2Proof.Machine.execCodingInfoStereo18900 xe s
  | .soundParam blk b filter raw => Sys2Proof.Machine.execSoundParam blk b filter raw s
  | .soundParamFilter0 blk b xx raw => Sys2Proof.Machine.execSoundParamFilter0 blk b xx raw s
  | .soundParamFilter1 blk b xx raw => Sys2Proof.Machine.execSoundParamFilter1 blk b xx raw s
  | .soundParamFilter2 blk b xx raw => Sys2Proof.Machine.execSoundParamFilter2 blk b xx raw s
  | .soundParamFilter3 blk b xx raw => Sys2Proof.Machine.execSoundParamFilter3 blk b xx raw s
  | .nibble b filter raw n => Sys2Proof.Machine.execNibble b filter raw n s

end Sys2Proof.Machine
end

