-- ==== Sys2Proof/Machine/Step.lean ====
section
/-! DEFINITION. One step under the default configuration (stepBy of Machine/Ops.lean), and the host's placing of one
command word. -/

namespace Sys2Proof.Machine

/-- One step (R38): the host does the next thing it has pending, to completion. -/
def step (s : State) : Host.Outcome State Fault Refusal := stepBy cfg exec s

/-- The host is to issue next the operation whose command word is the table word; the other operand ports keep what they
hold (log 8). -/
def State.withFetchWord (s : State) (nbits w : Nat) : State :=
  { s with pending := .issue { s.port with cmd := tableCommand nbits w } :: s.pending }

end Sys2Proof.Machine
end

