-- ==== Sys2Proof/Machine/Configured.lean ====
section
/-! DEFINITION. The machine with the configuration record as an argument (R6). `exec`, `step` and `State.reset` are these
at the default record (exec_eq_execOf). -/

namespace Sys2Proof.Machine

/-- Every instruction and item under a configuration. -/
def execOf (C : Cfg) (i : Instr) (s : State) : Host.Outcome State Fault Refusal :=
  match i with
  | .xaClear => execXaClearOf C s
  | .xaDecode => execXaDecodeOf C s
  | .xaPop => execXaPop s
  | .xaMute => execXaMute s
  | .xaDemute => execXaDemute s
  | .edcCheckMode1 => execEdcCheckMode1Of C s
  | .edcCheckMode2 => execEdcCheckMode2Of C s
  | .edcCheckAudio => execEdcCheckAudio s
  | .submode hi form lo => execSubmodeOf C hi form lo s
  | .codingInfo x e bb rr cc => execCodingInfoOf C x e bb rr cc s
  | .codingInfoMono37800 xe => execCodingInfoMono37800Of C xe s
  | .codingInfoStereo37800 xe => execCodingInfoStereo37800Of C xe s
  | .codingInfoMono18900 xe => execCodingInfoMono18900Of C xe s
  | .codingInfoStereo18900 xe => execCodingInfoStereo18900Of C xe s
  | .soundParam blk b filter raw => execSoundParamOf C blk b filter raw s
  | .soundParamFilter0 blk b xx raw => execSoundParamFilter0Of C blk b xx raw s
  | .soundParamFilter1 blk b xx raw => execSoundParamFilter1Of C blk b xx raw s
  | .soundParamFilter2 blk b xx raw => execSoundParamFilter2Of C blk b xx raw s
  | .soundParamFilter3 blk b xx raw => execSoundParamFilter3Of C blk b xx raw s
  | .nibble b filter raw n => execNibbleOf C b filter raw n s

/-- One step under a configuration. -/
def stepOf (C : Cfg) (s : State) : Host.Outcome State Fault Refusal := stepBy C (execOf C) s

/-- The machine of a configuration, as the host's interface takes one. -/
def coreOf (C : Cfg) : Host.Core where
  State := State
  Fault := Fault
  Refusal := Refusal
  step := stepOf C
  reset := State.resetOf C

end Sys2Proof.Machine
end

