-- ==== Sys2Proof/Machine/Pseudo.lean ====
section
/-! DEFINITION. The pseudo-operations of R64: fixed expansions into operations the host issues one by one. -/

namespace Sys2Proof.Machine

/-- The command word of an operation with operands (R63). -/
def request (i : Instr) (track : Byte) (sectorNo : Word) (sector : Memory) : Request := ⟨encode i, track, sectorNo, sector⟩

/-- The host issues one operation now. -/
def issueNow (r : Request) (s : State) : Host.Outcome State Fault Refusal :=
  step { s with pending := .issue r :: s.pending }

/-- The last operation answered `Valid` or `Skipped`: the sector may be used (R81, R84). -/
def sectorUsable (s : State) : Bool := s.results.getLast? == some .valid || s.results.getLast? == some .skipped

/-- `XA.DRAIN n`: `XA.POP` repeated `n` times (R64). -/
def xaDrain : Nat → State → Host.Outcome State Fault Refusal
  | 0, s => .next s
  | n + 1, s =>
    match issueNow (request .xaPop 0 0 []) s with
    | .next s' => xaDrain n s'
    | .fault r => .fault r
    | .refused r => .refused r

/-- `XA.SECTOR track, sector_no, S`: check, then decode only if the sector may be used (R64). -/
def xaSector (track : Byte) (sectorNo : Word) (sector : Memory) (s : State) : Host.Outcome State Fault Refusal :=
  match issueNow (request .edcCheckMode2 track sectorNo sector) s with
  | .next s' => if sectorUsable s' then issueNow (request .xaDecode 0 0 sector) s' else .next s'
  | .fault r => .fault r
  | .refused r => .refused r

/-- `XA.RESTART`: `XA.CLEAR` (R64). -/
def xaRestart (s : State) : Host.Outcome State Fault Refusal := issueNow (request .xaClear 0 0 []) s

end Sys2Proof.Machine
end

