-- ==== Sys2Proof/Safety.lean ====
section
/-! DEFINITION. The terms the claims are stated in: the invariants of 10_state.md R27, the geometry of R55 and R56, which
state is the block's own, runs of items, and the two-pass reading of `XA.DECODE` (R99). -/

namespace Sys2Proof.Machine

/-! ### Invariants -/

/-- What holds of a channel at every push: the ring has its entries, the cursor lies in it, the counter is 1 to 6
(R10, R14 to R16, R27 item 3). -/
structure ChanState.Wf (x : ChanState) : Prop where
  ring : x.ring.length = 32
  cursor : x.p < 32
  counter : 1 ≤ x.sixstep ∧ x.sixstep ≤ 6

/-- Both channels are well formed. -/
structure State.ChannelsWf (s : State) : Prop where
  left : s.chL.Wf
  right : s.chR.Wf

/-- What the host presents is a sector in canonical form. -/
def HostEvent.wf : HostEvent → Bool
  | .issue r => decide r.sector.wf
  | .reset => true

/-- The invariants between operations (R27): both counters 6, queues of equal length, cursors 0, rings whole; and every
sector in canonical form. -/
structure State.BetweenOps (s : State) : Prop where
  counters : s.chL.sixstep = 6 ∧ s.chR.sixstep = 6
  queues : s.chL.q.length = s.chR.q.length
  cursors : s.chL.p = 0 ∧ s.chR.p = 0
  rings : s.chL.ring.length = 32 ∧ s.chR.ring.length = 32
  sector : s.port.sector.wf
  events : ∀ e ∈ s.pending, e.wf = true

/-! ### What a claim compares -/

/-- Two states agree on everything R10 calls state. -/
structure SameBlock (s t : State) : Prop where
  left : s.chL = t.chL
  right : s.chR = t.chR
  modeCh : s.modeCh = t.modeCh
  modeRate : s.modeRate = t.modeRate
  mute : s.mute = t.mute

/-- The elements of a channel that only the decoder writes: all but the queue (R28). -/
structure SameDecoder (x y : ChanState) : Prop where
  old : x.old = y.old
  older : x.older = y.older
  ring : x.ring = y.ring
  p : x.p = y.p
  sixstep : x.sixstep = y.sixstep

/-- The same state with another sector on the port. -/
def State.withSector (s : State) (m : Memory) : State := { s with port := { s.port with sector := m } }

/-- The offsets `XA.DECODE` reads (R36). -/
def readByXaDecode (a : Nat) : Bool :=
  a == 19 ||
    (decide (24 ≤ a) && decide (a < 2328) &&
      ((decide (4 ≤ (a - 24) % 128) && decide ((a - 24) % 128 < 12)) || decide (16 ≤ (a - 24) % 128)))

/-- The sizes of the payload, the blocks and the header fit together (R55, R56): `18 * 128 = 2304`, and a header and 28
groups of four data bytes make a block. -/
structure GeometryFits (C : Cfg) : Prop where
  payload : C.xaBlocks * C.xaBlockBytes = C.xaPayloadBytes
  block : C.xaHeaderBytes + 4 * C.xaSamples = C.xaBlockBytes
  header : C.offSoundParam + C.xaSubblocks ≤ C.xaHeaderBytes
  groups : C.xaSubblocks = 2 * 4
  sector : C.offXaPayload + C.xaPayloadBytes ≤ C.sectorBytes

/-- Outputs of a mode pair for one sector (R97). -/
def outputsOf : ChMode → Rate → Nat
  | .mono, .hz37800 => 4704
  | .mono, .hz18900 => 9408
  | .stereo, .hz37800 => 2352
  | .stereo, .hz18900 => 4704

/-- The window `EDC.CHECK` compares under a mode operand, or none where nothing is checked (R71). -/
def checkedWindow (C : Cfg) (tm : TrackMode) (m : Memory) : Option Window :=
  match tm with
  | .mode1 => some mode1Window
  | .mode2 => some (mode2Window (sectorForm C m))
  | .audio => none

/-- An instruction completes as the decoding of one sector under the modes given: the modes are written, both queues grow
by the outputs of R97 (in mono by the same samples, R111), the counters stand at 6 again, the answer is `Decoded(n)`
(R100), and nothing outside the decoder changes. -/
def AnswersDecoded (i : Instr) (ch : ChMode) (rate : Rate) (s : State) : Prop :=
  ∃ t ysL ysR, exec i s = .next t ∧
    t.chL.q = s.chL.q ++ ysL ∧ t.chR.q = s.chR.q ++ ysR ∧
    ysL.length = outputsOf ch rate ∧ ysR.length = outputsOf ch rate ∧ (ch = .mono → ysL = ysR) ∧
    t.chL.sixstep = 6 ∧ t.chR.sixstep = 6 ∧
    t.modeCh = ch ∧ t.modeRate = rate ∧ t.mute = s.mute ∧ t.port = s.port ∧ t.pending = s.pending ∧
    t.results = s.results ++ [.decoded (outputsOf ch rate)]

/-! ### Runs of items, and of pushes -/

/-- Instructions run one after another, stopping at the first that does not answer a next state. -/
def execAll : List Instr → State → Host.Outcome State Fault Refusal
  | [], s => .next s
  | i :: is, s =>
    match exec i s with
    | .next t => execAll is t
    | .fault r => .fault r
    | .refused r => .refused r

/-- Samples pushed on a channel, in order. -/
def pushAll (C : Cfg) (c : Chan) (ys : List Sample) (s : State) : State := ys.foldl (fun s y => push C c y s) s

/-- Samples fed to a channel, in order (R98). -/
def feedAll (C : Cfg) (c : Chan) (ys : List Sample) (s : State) : State := ys.foldl (fun s y => feed C c y s) s

/-! ### The two-pass reading of `XA.DECODE` (R99): first decode a sector's worth of samples, then resample them -/

/-- The first pass over one sub-block: the samples so far and the channel with its history. -/
def passSubBlock (C : Cfg) (m : Memory) (blk b : Nat) (acc : List Sample × ChanState) : List Sample × ChanState :=
  let sp := sectorSoundParam C m blk b
  (List.range C.xaSamples).foldl
    (fun acc j =>
      let y := decodedSample C (C.xaFilter (filterNibble sp)) (C.xaEffShift (rawShift sp)) (sectorNibble C m blk b j) acc.2
      (acc.1 ++ [y], acc.2.remember y))
    acc

/-- The first pass over the sub-blocks `bs` of every block: what one channel decodes. -/
def passChannel (C : Cfg) (m : Memory) (bs : List Nat) (x : ChanState) : List Sample × ChanState :=
  (List.range C.xaBlocks).foldl (fun acc blk => bs.foldl (fun acc b => passSubBlock C m blk b acc) acc) ([], x)

/-- Both passes: all samples of channel `L`, then all of channel `R` where the sector is stereo. -/
def twoPassBlocks (C : Cfg) (s : State) : State :=
  match s.modeCh with
  | .mono =>
    let pl := passChannel C s.port.sector [0, 1, 2, 3, 4, 5, 6, 7] s.chL
    feedAll C .L pl.1 { s with chL := pl.2 }
  | .stereo =>
    let pl := passChannel C s.port.sector [0, 2, 4, 6] s.chL
    let pr := passChannel C s.port.sector [1, 3, 5, 7] s.chR
    feedAll C .R pr.1 (feedAll C .L pl.1 { s with chL := pl.2, chR := pr.2 })

end Sys2Proof.Machine
end

