-- ==== Sys2Proof/Certificates/Slice0/Obligations.lean ====
section
/-! DEFINITION. The statements for the provers, from the numbered rules of spec/. -/

open Sys2Proof Sys2Proof.Machine

/-! ### Encoding -/

/-- R49: exactly the eight words listed are legal; a word is illegal exactly when one of the four conditions holds; and an
illegal word raises `IllegalCommand(cmd)` with no change of state. -/
def Obligations.CommandWordsAreExactlyEight : Prop :=
  (∀ (w : Byte) (i : Instr), decodeCmd w = .ok i ↔
    (w, i) ∈ [(0x00, .xaClear), (0x01, .xaDecode), (0x02, .xaPop), (0x03, .xaMute), (0x04, .xaDemute),
      (0x05, .edcCheckMode1), (0x0D, .edcCheckMode2), (0x15, .edcCheckAudio)]) ∧
  (∀ w : Byte, (∃ e, decodeCmd w = .error e) ↔
    (w.extractLsb' 5 3 ≠ 0 ∨ w.extractLsb' 0 3 = 6 ∨ w.extractLsb' 0 3 = 7 ∨
      (w.extractLsb' 0 3 = 5 ∧ w.extractLsb' 3 2 = 3) ∨
      ((w.extractLsb' 0 3).toNat ≤ 4 ∧ w.extractLsb' 3 2 ≠ 0))) ∧
  (∀ (s : State) (r : Request) (rest : List HostEvent) (e : Reject),
    s.pending = .issue r :: rest → decodeCmd r.cmd = .error e →
    step s = .next { s with
      port := r, pending := rest, results := s.results ++ [.error (.illegalCommand r.cmd)] })

/-- Words written out from the encodings of R46, R53, R54, R58 and R59 decode to what they stand for. -/
def Obligations.WordsFromTheSpecDecode : Prop :=
  decodeCmd 0b00000001 = .ok .xaDecode ∧ decodeCmd 0b00001101 = .ok .edcCheckMode2 ∧
  decodeAt .submode 0b01100100 = .ok (.submode 0b01 .form2 0b00100) ∧
  decodeAt .codingInfo 0b11000101 = .ok (.codingInfo 1 1 0 1 1) ∧
  decodeAt .codingInfoVariant 0b11000100 = .ok (.codingInfoMono18900 0b11) ∧
  decodeAt (.soundParam 17 7) 0b00101001 = .ok (.soundParam 17 7 2 9) ∧
  decodeAt (.soundParamVariant 0 0) 0b11011100 = .ok (.soundParamFilter1 0 0 0b11 12) ∧
  decodeAt (.nibble 0 1 12) 0b00001111 = .ok (.nibble 0 1 12 15)

/-- Decoding the encoding of a well-formed instruction or item, in the place it stands, gives it back: no bit of an
encoding is dropped. -/
def Obligations.DecodeInvertsEncode : Prop :=
  ∀ i : Instr, WellFormed i = true → decodeAt (slotOf i) (encode i) = .ok i

/-- What a byte decodes to is well formed, stands in that place, and encodes to that byte: no two bytes of a place mean
the same. -/
def Obligations.EncodeInvertsDecode : Prop :=
  ∀ (p : Slot) (x : Byte) (i : Instr), decodeAt p x = .ok i →
    encode i = x ∧ slotOf i = p ∧ WellFormed i = true

/-! ### Steps and reset -/

/-- The step at a state where the host issues a legal command word is `exec` of the decoded operation, its operands on the
ports and the event taken from the host's list (the list is the model's own, log 1). -/
def Obligations.StepRunsDecodedOperation : Prop :=
  ∀ (s : State) (r : Request) (rest : List HostEvent) (i : Instr),
    s.pending = .issue r :: rest → decodeCmd r.cmd = .ok i →
    step s = exec i { s with port := r, pending := rest }

/-- R145: reset puts every element of state at its value of R26. -/
def Obligations.ResetEventInitialisesBlock : Prop :=
  ∀ (s : State) (rest : List HostEvent), s.pending = .reset :: rest →
    ∃ t, step s = .next t ∧
      t.chL = ⟨0, 0, List.replicate 32 0, 0, 6, []⟩ ∧ t.chR = ⟨0, 0, List.replicate 32 0, 0, 6, []⟩ ∧
      t.modeCh = .mono ∧ t.modeRate = .hz37800 ∧ t.mute = false

/-- R26: the reset values, and which of them `XA.CLEAR` sets as well. -/
def Obligations.ResetValuesAndClear : Prop :=
  State.reset.chL = ⟨0, 0, List.replicate 32 0, 0, 6, []⟩ ∧
  State.reset.chR = ⟨0, 0, List.replicate 32 0, 0, 6, []⟩ ∧
  State.reset.modeCh = .mono ∧ State.reset.modeRate = .hz37800 ∧ State.reset.mute = false ∧
  ∀ s : State, ∃ t, exec .xaClear s = .next t ∧ t.chL = State.reset.chL ∧ t.chR = State.reset.chR ∧
    t.modeCh = s.modeCh ∧ t.modeRate = s.modeRate ∧ t.mute = s.mute

/-- With nothing pending a step changes nothing (the model's choice of log 1; R157 says that nothing is in flight). -/
def Obligations.IdleStepKeepsState : Prop :=
  ∀ s : State, s.pending = [] → step s = .next s

/-! ### The sector check -/

/-- R33: the stored checksum is read least significant byte first. -/
def Obligations.StoredChecksumIsLittleEndian : Prop :=
  (∀ (m : Memory) (a : Nat), (m.read32 a).toNat =
    (m.read a).toNat + 256 * (m.read (a + 1)).toNat + 65536 * (m.read (a + 2)).toNat +
      16777216 * (m.read (a + 3)).toNat) ∧
  ∀ (m : Memory) (a : Nat), m.read a = 0x78 → m.read (a + 1) = 0x56 → m.read (a + 2) = 0x34 →
    m.read (a + 3) = 0x12 → m.read32 a = 0x12345678

/-- R73: `EDC.CHECK` in `Mode1` compares the checksum of `0..2064` with the field `2064..2068`; zero is not special. -/
def Obligations.EdcCheckMode1Compares : Prop :=
  ∀ s : State,
    let stored := s.port.sector.read32 2064
    let computed := edc cfg (s.port.sector.readBytes 0 2064)
    exec .edcCheckMode1 s = .next { s with results := s.results ++
      [if computed = stored then .valid
       else .error (.edcMismatch s.port.track s.port.sectorNo stored computed)] }

/-- R74: `EDC.CHECK` in `Mode2`, Form1 (bit 5 of `S[18]` clear). -/
def Obligations.EdcCheckForm1Compares : Prop :=
  ∀ s : State, (s.port.sector.read 18).getLsbD 5 = false →
    let stored := s.port.sector.read32 2072
    let computed := edc cfg (s.port.sector.readBytes 16 2056)
    exec .edcCheckMode2 s = .next { s with results := s.results ++
      [if computed = stored then .valid
       else .error (.edcMismatch s.port.track s.port.sectorNo stored computed)] }

/-- R75: `EDC.CHECK` in `Mode2`, Form2 (bit 5 of `S[18]` set): an all-zero field skips the check. -/
def Obligations.EdcCheckForm2ComparesOrSkips : Prop :=
  ∀ s : State, (s.port.sector.read 18).getLsbD 5 = true →
    let stored := s.port.sector.read32 2348
    let computed := edc cfg (s.port.sector.readBytes 16 2332)
    exec .edcCheckMode2 s = .next { s with results := s.results ++
      [if stored = 0 then .skipped
       else if computed = stored then .valid
       else .error (.edcMismatch s.port.track s.port.sectorNo stored computed)] }

/-- R80: `EDC.CHECK` in `Audio` answers `Skipped` whatever the sector holds. -/
def Obligations.EdcCheckAudioSkips : Prop :=
  ∀ (s : State) (m : Memory), exec .edcCheckAudio (s.withSector m) =
    .next ((s.post .skipped).withSector m)

/-- The submode byte (R53, R71): bit 5 alone selects the form; the check under the sector's own submode byte is
`EDC.CHECK Mode2`; and under each form the item completes with the one result of that form's window. That the item has
the meaning of the check that reads it is the model's choice (log 5). -/
def Obligations.SubmodeByteSelectsTheCheck : Prop :=
  (∀ s : State, exec .edcCheckMode2 s = exec (decodeSubmode (s.port.sector.read 18)) s) ∧
  (∀ (x : Byte) (s : State), ∃ v, exec (decodeSubmode x) s = .next { s with results := s.results ++ [v] } ∧
    v = if x.getLsbD 5 then
        (if s.port.sector.read32 2348 = 0 then .skipped
         else if edc cfg (s.port.sector.readBytes 16 2332) = s.port.sector.read32 2348 then .valid
         else .error (.edcMismatch s.port.track s.port.sectorNo (s.port.sector.read32 2348)
           (edc cfg (s.port.sector.readBytes 16 2332))))
      else
        (if edc cfg (s.port.sector.readBytes 16 2056) = s.port.sector.read32 2072 then .valid
         else .error (.edcMismatch s.port.track s.port.sectorNo (s.port.sector.read32 2072)
           (edc cfg (s.port.sector.readBytes 16 2056)))))

/-- R77: the table form of the checksum equals the bit-serial form, for every configuration; and the entries the rule
lists, under the default polynomial. -/
def Obligations.ChecksumTableFormAgrees : Prop :=
  (∀ (C : Cfg) (bytes : List Byte), edcByTable C bytes = edc C bytes) ∧
  crcTable cfg 0 = 0x00000000 ∧ crcTable cfg 1 = 0x90910101 ∧ crcTable cfg 2 = 0x91210201 ∧
  crcTable cfg 3 = 0x01B00300 ∧ crcTable cfg 128 = 0xD8018001 ∧ crcTable cfg 255 = 0x7070FF00

/-- R78: the byte at the lowest offset of the field is `stored[7:0]`; and for a sector whose check is `Valid` the checksum
run on through the four checksum bytes is 0. -/
def Obligations.ChecksumThroughItsFieldIsZero : Prop :=
  (∀ (m : Memory) (a : Nat), (m.read32 a).extractLsb' 0 8 = m.read a) ∧
  ∀ (tm : TrackMode) (s : State) (w : Window), checkedWindow cfg tm s.port.sector = some w →
    exec (edcCheckOf tm) s = .next (s.post .valid) →
    edc cfg (s.port.sector.readBytes w.lo (w.field + 4 - w.lo)) = 0

/-- R83 (a): in a `Valid` sector, changing one byte inside the window, the window staying the same, gives `EdcMismatch`
with the unchanged stored field and the checksum of the changed window. -/
def Obligations.WindowByteChangeGivesMismatch : Prop :=
  ∀ (tm : TrackMode) (s : State) (w : Window) (a : Nat) (v : Byte),
    s.port.sector.wf → checkedWindow cfg tm s.port.sector = some w →
    exec (edcCheckOf tm) s = .next (s.post .valid) →
    w.lo ≤ a → a < w.hi → v ≠ s.port.sector.read a →
    checkedWindow cfg tm (s.port.sector.write a v) = some w →
    exec (edcCheckOf tm) (s.withSector (s.port.sector.write a v)) =
      .next ((s.post (.error (.edcMismatch s.port.track s.port.sectorNo (s.port.sector.read32 w.field)
        (windowEdc cfg (s.port.sector.write a v) w)))).withSector (s.port.sector.write a v))

/-- R83 (b): changing a byte outside the window and outside the checksum field leaves the result `Valid`. -/
def Obligations.ByteOutsideWindowKeepsValid : Prop :=
  ∀ (tm : TrackMode) (s : State) (w : Window) (a : Nat) (v : Byte),
    s.port.sector.wf → checkedWindow cfg tm s.port.sector = some w →
    exec (edcCheckOf tm) s = .next (s.post .valid) →
    a < 2352 → (a < w.lo ∨ w.hi ≤ a) → (a < w.field ∨ w.field + 4 ≤ a) →
    exec (edcCheckOf tm) (s.withSector (s.port.sector.write a v)) =
      .next ((s.post .valid).withSector (s.port.sector.write a v))

/-- R83 (c): changing a byte of the checksum field gives `EdcMismatch` with the changed field as `expected`, except in
Form2 when the field becomes all zero, which gives `Skipped`. -/
def Obligations.ChecksumFieldByteChange : Prop :=
  ∀ (tm : TrackMode) (s : State) (w : Window) (a : Nat) (v : Byte),
    s.port.sector.wf → checkedWindow cfg tm s.port.sector = some w →
    exec (edcCheckOf tm) s = .next (s.post .valid) →
    w.field ≤ a → a < w.field + 4 → v ≠ s.port.sector.read a →
    exec (edcCheckOf tm) (s.withSector (s.port.sector.write a v)) =
      .next ((s.post
        (if w = mode2Window .form2 ∧ (s.port.sector.write a v).read32 w.field = 0 then .skipped
         else .error (.edcMismatch s.port.track s.port.sectorNo ((s.port.sector.write a v).read32 w.field)
           (windowEdc cfg s.port.sector w)))).withSector (s.port.sector.write a v))

/-- R82: the same `EDC.CHECK` gives the same result in any two states, and changes nothing of either but the results. -/
def Obligations.EdcCheckIndependentOfUnitXa : Prop :=
  ∀ (tm : TrackMode) (s t : State), s.port = t.port →
    ∃ v, exec (edcCheckOf tm) s = .next { s with results := s.results ++ [v] } ∧
      exec (edcCheckOf tm) t = .next { t with results := t.results ++ [v] }

/-! ### `XA.DECODE`: parse -/

/-- R87: an unsupported coding-info byte raises `XaUnsupportedCoding` and changes no state, of `XA.DECODE` and of the
coding-info item, whose meaning is the model's choice (log 5); bits 7 and 6 never cause the error and never change the
decoding. -/
def Obligations.UnsupportedCodingRaisesError : Prop :=
  (∀ s : State, let ci := s.port.sector.read 19
    (ci.extractLsb' 4 2 ≠ 0 ∨ 2 ≤ (ci.extractLsb' 0 2).toNat ∨ 2 ≤ (ci.extractLsb' 2 2).toNat) →
    exec .xaDecode s = .next { s with results := s.results ++ [.error (.xaUnsupportedCoding ci)] }) ∧
  (∀ (s : State) (x e : BitVec 1) (bb rr cc : BitVec 2), (bb ≠ 0 ∨ 2 ≤ cc.toNat ∨ 2 ≤ rr.toNat) →
    exec (.codingInfo x e bb rr cc) s =
      .next { s with results := s.results ++ [.error (.xaUnsupportedCoding (encode (.codingInfo x e bb rr cc)))] }) ∧
  (∀ s : State, let ci := s.port.sector.read 19
    ci.extractLsb' 4 2 = 0 → (ci.extractLsb' 0 2).toNat < 2 → (ci.extractLsb' 2 2).toNat < 2 →
    ∃ t n, exec .xaDecode s = .next t ∧ t.results = s.results ++ [.decoded n]) ∧
  ∀ (s : State) (x e x' e' : BitVec 1) (rr cc : BitVec 2), rr.toNat < 2 → cc.toNat < 2 →
    ∃ t, exec (.codingInfo x e 0 rr cc) s = .next t ∧ exec (.codingInfo x' e' 0 rr cc) s = .next t

/-- `XA.DECODE` is what its sector's coding-info byte steers, and each supported row is that row of the byte (R54, R86);
that the items have these meanings is the model's choice (log 5). -/
def Obligations.CodingInfoSteersXaDecode : Prop :=
  (∀ s : State, exec .xaDecode s = exec (decodeCodingInfo (s.port.sector.read 19)) s) ∧
  ∀ (x : Byte) (i : Instr) (s : State), decodeCodingInfoVariant x = .ok i →
    exec i s = exec (decodeCodingInfo x) s

/-- R100: `XA.DECODE` completes with `Decoded(n)`, where `n` samples were appended to each queue and is the number of R97;
with its frame. -/
def Obligations.XaDecodeAnswersItsOutputs : Prop :=
  ∀ (s : State) (ch : ChMode) (rate : Rate), codingModes (s.port.sector.read 19) = some (ch, rate) →
    s.chL.sixstep = 6 → s.chR.sixstep = 6 → AnswersDecoded .xaDecode ch rate s

/-- The coding-info rows (R54) complete with the number of outputs of R97; that they have the meaning of the operation
that reads them is the model's choice (log 5). -/
def Obligations.CodingInfoRowsAnswerTheirOutputs : Prop :=
  ∀ (s : State) (xe : BitVec 2) (x e : BitVec 1), s.chL.sixstep = 6 → s.chR.sixstep = 6 →
    AnswersDecoded (.codingInfoMono37800 xe) .mono .hz37800 s ∧
    AnswersDecoded (.codingInfoStereo37800 xe) .stereo .hz37800 s ∧
    AnswersDecoded (.codingInfoMono18900 xe) .mono .hz18900 s ∧
    AnswersDecoded (.codingInfoStereo18900 xe) .stereo .hz18900 s ∧
    AnswersDecoded (.codingInfo x e 0 0 0) .mono .hz37800 s ∧
    AnswersDecoded (.codingInfo x e 0 0 1) .stereo .hz37800 s ∧
    AnswersDecoded (.codingInfo x e 0 1 0) .mono .hz18900 s ∧
    AnswersDecoded (.codingInfo x e 0 1 1) .stereo .hz18900 s

/-! ### `XA.DECODE`: the whole operation -/

/-- R99: feeding each sample to the resampler as it is decoded is the same function of state and sector as decoding a
sector's worth of samples first and resampling them afterwards. -/
def Obligations.XaDecodeIsTwoPasses : Prop :=
  ∀ (s : State) (ch : ChMode) (rate : Rate), codingModes (s.port.sector.read 19) = some (ch, rate) →
    exec .xaDecode s = .next ((twoPassBlocks cfg (s.setModes ch rate)).post
      (.decoded ((twoPassBlocks cfg (s.setModes ch rate)).chL.q.length - s.chL.q.length)))

/-- R28: in mono channel `R`'s history, ring, cursor and counter are left untouched, both queues get the outputs computed
on `L`, and what is computed on `L` does not depend on `R`; in stereo neither channel's outcome depends on the other. -/
def Obligations.ChannelsShareNothing : Prop :=
  (∀ (s : State) (x : ChanState) (rate : Rate), codingModes (s.port.sector.read 19) = some (.mono, rate) →
    ∃ t u ys, exec .xaDecode s = .next t ∧ exec .xaDecode { s with chR := x } = .next u ∧
      SameDecoder s.chR t.chR ∧ t.chL.q = s.chL.q ++ ys ∧ t.chR.q = s.chR.q ++ ys ∧ u.chL = t.chL) ∧
  (∀ (s : State) (x : ChanState) (rate : Rate), codingModes (s.port.sector.read 19) = some (.stereo, rate) →
    ∃ t u v, exec .xaDecode s = .next t ∧ exec .xaDecode { s with chR := x } = .next u ∧
      exec .xaDecode { s with chL := x } = .next v ∧ u.chL = t.chL ∧ v.chR = t.chR)

/-- What `XA.DECODE` does not look at (R88, R103): two sectors that agree on the low six bits of the coding-info byte and
on the sound-parameter and data bytes decode alike, whatever else they hold. -/
def Obligations.XaDecodeIgnoresAllOtherBytes : Prop :=
  ∀ (s : State) (m m' : Memory) (ch : ChMode) (rate : Rate), codingModes (m.read 19) = some (ch, rate) →
    (m.read 19).extractLsb' 0 6 = (m'.read 19).extractLsb' 0 6 →
    (∀ a, readByXaDecode a = true → a ≠ 19 → m.read a = m'.read a) →
    ∃ t, exec .xaDecode (s.withSector m) = .next t ∧ exec .xaDecode (s.withSector m') = .next (t.withSector m')

/-! ### `XA.DECODE`: one sample, one sub-block -/

/-- R94 and R95 for one sample: the history of its channel moves on by the clamped sum of the shifted nibble and the
prediction; the next state is `Feed` of that sample (R98) on the state with the history moved on, which fixes the ring,
the cursor, the counter and the queues at both rates (`LowRateFeedsEverySampleTwice` says what `Feed` pushes); the other
channel's decoder and everything outside the channels is unchanged; and at 37800 Hz the ring of the channel takes exactly
that sample. That the item has this meaning is the model's choice (log 5). -/
def Obligations.NibbleDecodesOneSample : Prop :=
  ∀ (b : Nat) (filter raw n : Nibble) (s : State),
    let c : Chan := if s.modeCh = .stereo ∧ b % 2 = 1 then .R else .L
    let d : Chan := if s.modeCh = .stereo ∧ b % 2 = 1 then .L else .R
    let f : Int × Int := [(0, 0), (60, 0), (115, -52), (98, -55)].getD (filter.toNat % 4) (0, 0)
    let eff : Nat := [12, 11, 10, 9, 8, 7, 6, 5, 4, 3, 2, 1, 0, 3, 3, 3].getD raw.toNat 0
    ∃ t, exec (.nibble b filter raw n) s = .next t ∧
      (t.chan c).older = (s.chan c).old ∧
      (t.chan c).old.toInt = clamp16 (sext4 n * 2 ^ eff +
        (f.1 * (s.chan c).old.toInt + f.2 * (s.chan c).older.toInt + 32).tdiv 64) ∧
      t = feed cfg c (t.chan c).old
        (s.setChan c { s.chan c with old := (t.chan c).old, older := (s.chan c).old }) ∧
      SameDecoder (s.chan d) (t.chan d) ∧
      (s.modeRate = .hz37800 → (t.chan c).ring = (s.chan c).ring.set (s.chan c).p (t.chan c).old) ∧
      t.modeCh = s.modeCh ∧ t.modeRate = s.modeRate ∧ t.mute = s.mute ∧ t.port = s.port ∧
      t.pending = s.pending ∧ t.results = s.results

/-- A sound-parameter byte decodes the 28 nibbles of its sub-block in order, each in the byte and half that R59 gives
(R94, R95); that the items have these meanings is the model's choice (log 5). -/
def Obligations.SoundParamDecodesItsSubBlock : Prop :=
  ∀ (blk b : Nat) (filter raw : Nibble) (s : State), blk < 18 → b < 8 →
    ∃ t, exec (.soundParam blk b filter raw) s = .next t ∧
      execAll ((List.range 28).map fun j =>
        .nibble b filter raw
          (let x := s.port.sector.read (24 + 128 * blk + 16 + 4 * j + b / 2)
           if b % 2 = 0 then x.extractLsb' 0 4 else x.extractLsb' 4 4)) s = .next t

/-- R93: the four filter rows complete as the sound-parameter byte with their two filter bits, and select the four
coefficient pairs, bits 7 and 6 ignored; that the rows have the meaning of the operation that reads them is the model's
choice (log 5). -/
def Obligations.FilterRowsSelectTheirPairs : Prop :=
  (∀ xx : BitVec 2, cfg.xaFilter (xx ++ 0#2) = (0, 0) ∧ cfg.xaFilter (xx ++ 1#2) = (60, 0) ∧
    cfg.xaFilter (xx ++ 2#2) = (115, -52) ∧ cfg.xaFilter (xx ++ 3#2) = (98, -55)) ∧
  ∀ (blk b : Nat) (xx : BitVec 2) (raw : Nibble) (s : State), blk < 18 → b < 8 →
    (∃ t, exec (.soundParamFilter0 blk b xx raw) s = .next t ∧
      exec (.soundParam blk b (xx ++ 0#2) raw) s = .next t) ∧
    (∃ t, exec (.soundParamFilter1 blk b xx raw) s = .next t ∧
      exec (.soundParam blk b (xx ++ 1#2) raw) s = .next t) ∧
    (∃ t, exec (.soundParamFilter2 blk b xx raw) s = .next t ∧
      exec (.soundParam blk b (xx ++ 2#2) raw) s = .next t) ∧
    (∃ t, exec (.soundParamFilter3 blk b xx raw) s = .next t ∧
      exec (.soundParam blk b (xx ++ 3#2) raw) s = .next t)

/-- A sound-parameter item placed where a sector has no sub-block faults (the model's choice of log 5; R31 says that no
operation forms such an offset). -/
def Obligations.SoundParamOutsideTheSectorFaults : Prop :=
  ∀ (blk b : Nat) (filter raw : Nibble) (xx : BitVec 2) (s : State), ¬(blk < 18 ∧ b < 8) →
    exec (.soundParam blk b filter raw) s = .fault .offsetOutsideSector ∧
    exec (.soundParamFilter0 blk b xx raw) s = .fault .offsetOutsideSector ∧
    exec (.soundParamFilter1 blk b xx raw) s = .fault .offsetOutsideSector ∧
    exec (.soundParamFilter2 blk b xx raw) s = .fault .offsetOutsideSector ∧
    exec (.soundParamFilter3 blk b xx raw) s = .fault .offsetOutsideSector

/-- R92: the effective shift of each raw shift, and the other way of saying it for raw shifts up to 12. -/
def Obligations.EffectiveShiftTable : Prop :=
  (∀ raw : Nibble, cfg.xaEffShift raw =
    [12, 11, 10, 9, 8, 7, 6, 5, 4, 3, 2, 1, 0, 3, 3, 3].getD raw.toNat 0) ∧
  ∀ (raw n : Nibble), raw.toNat ≤ 12 →
    sext4 n * 2 ^ cfg.xaEffShift raw = (sext4 n * 2 ^ 12) / 2 ^ raw.toNat

/-- R96: under the default tables the decoder's intermediate numbers stay within the bounds the rule gives, so a 32-bit
signed accumulator never overflows. -/
def Obligations.DecoderNumbersFitThirtyTwoBits : Prop :=
  ∀ (x : ChanState) (filter raw n : Nibble),
    let t := sext4 n * 2 ^ cfg.xaEffShift raw
    let f := cfg.xaFilter filter
    let num := f.1 * x.old.toInt + f.2 * x.older.toInt + 32
    let pred := predict cfg f x
    (-32768 ≤ t ∧ t ≤ 28672) ∧
    (-((115 + 55) * 32768) + 32 ≤ num ∧ num ≤ (115 + 55) * 32768 + 32) ∧
    (-87100 ≤ pred ∧ pred ≤ 87100) ∧ (-120000 ≤ t + pred ∧ t + pred ≤ 120000) ∧
    (-(2 ^ 31) ≤ num ∧ num < 2 ^ 31) ∧ (-(2 ^ 31) ≤ t + pred ∧ t + pred < 2 ^ 31)

/-! ### The resampler -/

/-- R115: with the default table the largest column sum of absolute values is 56030, of phases 5 and 6, so the sum fits a
signed 32-bit accumulator and its shift lies within 56030. -/
def Obligations.InterpolatorSumFits : Prop :=
  (∀ k, k < 7 → ((List.range 29).map fun i => (cfg.zigzag k i).natAbs).sum ≤ 56030) ∧
  ((List.range 29).map fun i => (cfg.zigzag 5 i).natAbs).sum = 56030 ∧
  ((List.range 29).map fun i => (cfg.zigzag 6 i).natAbs).sum = 56030 ∧
  ∀ (x : ChanState) (k : Nat), k < 7 →
    (zigzagSum cfg x k).natAbs ≤ 32768 * 56030 ∧
    (-(2 ^ 31) ≤ zigzagSum cfg x k ∧ zigzagSum cfg x k < 2 ^ 31) ∧
    (-56030 ≤ zigzagSum cfg x k / 2 ^ 15 ∧ zigzagSum cfg x k / 2 ^ 15 ≤ 56030)

/-- R118: an all-zero ring gives 0 for every phase under any configuration; a ring whose 29 most recent entries are the
constant `v` gives the clamped, shifted product of `v` and the column sum, with the default column sums listed. -/
def Obligations.InterpolatorOfConstants : Prop :=
  (∀ (C : Cfg) (x : ChanState) (k : Nat), (∀ v ∈ x.ring, v = 0) → zigzagOutput C x k = 0) ∧
  ∀ (x : ChanState) (v : Sample) (k : Nat), k < 7 → (∀ i, i < 29 → tapSample cfg x i = v) →
    zigzagOutput cfg x k =
      toSample (v.toInt * [29675, 29725, 29669, 29725, 29677, 29704, 29704].getD k 0 / 2 ^ 15)

/-- R107 and R113: from a counter of 6, `m` pushes on a channel emit `7 * (m / 6)` outputs, leave the counter at
`6 - m mod 6` and move the cursor on by `m`; the outputs go to that channel's queue in stereo and to both in mono. -/
def Obligations.EverySixthPushEmitsSeven : Prop :=
  ∀ (s : State) (c : Chan) (ys : List Sample), (s.chan c).sixstep = 6 → (s.chan c).p < 32 →
    ((pushAll cfg c ys s).chan c).sixstep = 6 - ys.length % 6 ∧
    ((pushAll cfg c ys s).chan c).p = ((s.chan c).p + ys.length) % 32 ∧
    ((pushAll cfg c ys s).chan c).q.length = (s.chan c).q.length + 7 * (ys.length / 6) ∧
    ∀ d, d ≠ c → ((pushAll cfg c ys s).chan d).q.length =
      (s.chan d).q.length + (if s.modeCh = .mono then 7 * (ys.length / 6) else 0)

/-- R106, R109, R110, one push: the sample is written and the cursor advanced before any output is computed; where the
counter comes to 0 it is reloaded and seven outputs are emitted (`OutputsAreRoutedByMode` says where), in order of phase,
each the exact sum over 29 taps, tap 0 meeting this sample and tap `i` the one pushed `i` pushes before, shifted right by
15 rounding down, then clamped; otherwise nothing is emitted. -/
def Obligations.PushInterpolatesWhenItEmits : Prop :=
  ∀ (s : State) (c : Chan) (y : Sample), (s.chan c).p < 32 → (s.chan c).ring.length = 32 →
    let x : ChanState := { s.chan c with ring := (s.chan c).ring.set (s.chan c).p y, p := ((s.chan c).p + 1) % 32 }
    (1 < (s.chan c).sixstep → push cfg c y s = s.setChan c { x with sixstep := (s.chan c).sixstep - 1 }) ∧
    ((s.chan c).sixstep = 1 → ∃ outs : List Sample, outs.length = 7 ∧
      push cfg c y s = emit c outs (s.setChan c { x with sixstep := 6 }) ∧
      ∀ k, k < 7 → (outs.getD k 0).toInt =
        clamp16 ((y.toInt * cfg.zigzag k 0 + ((List.range 28).map fun i =>
          ((s.chan c).ring.getD (((s.chan c).p + 31 - i) % 32) 0).toInt * cfg.zigzag k (i + 1)).sum) / 2 ^ 15))

/-- R111: in stereo an output goes to the channel's own queue, in mono to both; nothing else changes. -/
def Obligations.OutputsAreRoutedByMode : Prop :=
  ∀ (s : State) (ys : List Sample),
    (s.modeCh = .stereo →
      emit .L ys s = { s with chL := { s.chL with q := s.chL.q ++ ys } } ∧
      emit .R ys s = { s with chR := { s.chR with q := s.chR.q ++ ys } }) ∧
    (s.modeCh = .mono →
      emit .L ys s = { s with
        chL := { s.chL with q := s.chL.q ++ ys }, chR := { s.chR with q := s.chR.q ++ ys } })

/-- R98, R117: a list of samples fed at 18900 Hz is the list with every sample doubled, pushed; at 37800 Hz it is the list
itself, pushed. -/
def Obligations.LowRateFeedsEverySampleTwice : Prop :=
  ∀ (s : State) (c : Chan) (ys : List Sample),
    (s.modeRate = .hz18900 → feedAll cfg c ys s = pushAll cfg c (ys.flatMap fun y => [y, y]) s) ∧
    (s.modeRate = .hz37800 → feedAll cfg c ys s = pushAll cfg c ys s)

/-! ### Playback -/

/-- R120: `XA.CLEAR` sets histories, rings, cursors, counters and queues, and nothing else. -/
def Obligations.ClearReinitialisesPlayback : Prop :=
  ∀ s : State, exec .xaClear s = .next { s with
    chL := ⟨0, 0, List.replicate 32 0, 0, 6, []⟩, chR := ⟨0, 0, List.replicate 32 0, 0, 6, []⟩,
    results := s.results ++ [.done] }

/-- R121, R122: `XA.POP` removes one sample from the head of each queue (an empty one stays empty and gives 0) and answers
the pair, or silence when muted; on empty queues the state is unchanged but for the answer. -/
def Obligations.PopAnswersOnePair : Prop :=
  (∀ s : State, exec .xaPop s = .next { s with
    chL := { s.chL with q := s.chL.q.tail }, chR := { s.chR with q := s.chR.q.tail },
    results := s.results ++ [if s.mute then .pair 0 0 else .pair (s.chL.q.headD 0) (s.chR.q.headD 0)] }) ∧
  ∀ s : State, s.chL.q = [] → s.chR.q = [] →
    exec .xaPop s = .next { s with results := s.results ++ [.pair 0 0] }

/-- R124, R125: `XA.MUTE` and `XA.DEMUTE` write `MUTE` and nothing else. -/
def Obligations.MuteAndDemuteWriteTheFlag : Prop :=
  ∀ s : State, exec .xaMute s = .next { s with mute := true, results := s.results ++ [.done] } ∧
    exec .xaDemute s = .next { s with mute := false, results := s.results ++ [.done] }

/-- R123: muted, a pop still removes the pair and answers silence; muting does not alter `XA.DECODE`; and it touches no
history, ring or queue. -/
def Obligations.MuteGatesOnlyTheOutput : Prop :=
  (∀ (s : State) (l r : Sample) (ql qr : List Sample), s.mute = true → s.chL.q = l :: ql → s.chR.q = r :: qr →
    exec .xaPop s = .next { s with
      chL := { s.chL with q := ql }, chR := { s.chR with q := qr }, results := s.results ++ [.pair 0 0] }) ∧
  (∀ (s : State) (v : Bool), ∃ t, exec .xaDecode s = .next t ∧
    exec .xaDecode { s with mute := v } = .next { t with mute := v }) ∧
  ∀ s : State, ∃ t, exec .xaMute s = .next t ∧ t.chL = s.chL ∧ t.chR = s.chR

/-- R42 by way of the pseudo-operation `XA.DRAIN` (R64): unmuted, `n` pops answer the first `n` samples of the queues in
order, and leave the rest. -/
def Obligations.DrainAnswersPairsInOrder : Prop :=
  ∀ (n : Nat) (s : State), s.mute = false → n ≤ s.chL.q.length → n ≤ s.chR.q.length →
    ∃ t, xaDrain n s = .next t ∧
      t.results = s.results ++ List.zipWith .pair (s.chL.q.take n) (s.chR.q.take n) ∧
      t.chL = { s.chL with q := s.chL.q.drop n } ∧ t.chR = { s.chR with q := s.chR.q.drop n } ∧
      t.pending = s.pending

/-- The pseudo-operation `XA.SECTOR` (R64): a sector whose Mode2 check mismatches is not decoded and leaves the block as it
was; any other sector is checked and then decoded or refused by its coding-info byte. -/
def Obligations.SectorIsCheckedBeforeDecoding : Prop :=
  ∀ (track : Byte) (sectorNo : Word) (m : Memory) (s : State),
    let w := mode2Window (sectorForm cfg m)
    ((windowEdc cfg m w ≠ m.read32 w.field ∧ ¬(w.skipZero = true ∧ m.read32 w.field = 0)) →
      ∃ t, xaSector track sectorNo m s = .next t ∧ SameBlock s t ∧
        t.results = s.results ++ [.error (.edcMismatch track sectorNo (m.read32 w.field) (windowEdc cfg m w))]) ∧
    ((windowEdc cfg m w = m.read32 w.field ∨ (w.skipZero = true ∧ m.read32 w.field = 0)) →
      ∃ t u v, xaSector track sectorNo m s = .next t ∧ t.results = s.results ++ [u, v] ∧
        (u = .valid ∨ u = .skipped) ∧
        ((∃ n, v = .decoded n) ∨ (v = .error (.xaUnsupportedCoding (m.read 19)) ∧ SameBlock s t)))

/-! ### The whole machine -/

/-- R131: an operation that ends with an error leaves every element of the block's state as it was. -/
def Obligations.ErrorsChangeNoState : Prop :=
  ∀ (s t : State) (r : Request) (rest : List HostEvent) (e : OpError), s.pending = .issue r :: rest →
    step s = .next t → t.results = s.results ++ [.error e] → SameBlock s t

/-- R144: every operation on every input ends with one result, and after any result the block accepts the next
operation: no step faults or is refused. That a step with nothing issued answers a next state too is the model's choice
(log 1). -/
def Obligations.EveryOperationEndsWithAResult : Prop :=
  ∀ s : State, ∃ t, step s = .next t ∧
    ∀ (r : Request) (rest : List HostEvent), s.pending = .issue r :: rest →
      t.pending = rest ∧ ∃ v, t.results = s.results ++ [v]

/-- R27: the invariants between operations are kept by every step. -/
def Obligations.StepKeepsInvariantsBetweenOperations : Prop :=
  ∀ s t : State, s.BetweenOps → step s = .next t → t.BetweenOps

/-- R27: they hold in the reset state. -/
def Obligations.ResetMeetsInvariantsBetweenOperations : Prop := State.reset.BetweenOps

/-- Inside an operation too the rings keep their entries, the cursors lie in them and the counters are 1 to 6 (R10): every
instruction and every item keeps it. -/
def Obligations.EveryInstructionKeepsChannelsWf : Prop :=
  ∀ (i : Instr) (s t : State), s.ChannelsWf → exec i s = .next t → t.ChannelsWf

/-- Who writes the flag and the modes (R18, R19, R21), over every instruction and item: only `XA.MUTE` and `XA.DEMUTE`
write `MUTE`; only `XA.DECODE` and the coding-info items write the modes. -/
def Obligations.OnlyTheirWritersChangeFlagAndModes : Prop :=
  ∀ (i : Instr) (s t : State), exec i s = .next t →
    (i ≠ .xaMute → i ≠ .xaDemute → t.mute = s.mute) ∧
    (i ≠ .xaDecode → slotOf i ≠ .codingInfo → slotOf i ≠ .codingInfoVariant →
      t.modeCh = s.modeCh ∧ t.modeRate = s.modeRate)

/-- The frame of every instruction (R8, R30, R67): no byte of the sector is written, the tags and what the host does next
are untouched, and exactly one result is appended by an operation, at most one by an item. -/
def Obligations.NoInstructionWritesTheSector : Prop :=
  ∀ (i : Instr) (s t : State), exec i s = .next t →
    (∀ a, t.port.sector.read a = s.port.sector.read a) ∧ t.port = s.port ∧ t.pending = s.pending ∧
    ((∃ v, t.results = s.results ++ [v]) ∨ (i.isOperation = false ∧ t.results = s.results))

/-- The decoder is the only writer of a history, a ring, a cursor or a counter besides `XA.CLEAR`, and only it and
`XA.POP` and `XA.CLEAR` change a queue (R10): every other instruction leaves both channels alone. -/
def Obligations.OnlyXaOperationsChangeChannels : Prop :=
  (∀ s t : State, exec .xaPop s = .next t → SameDecoder s.chL t.chL ∧ SameDecoder s.chR t.chR) ∧
  ∀ (i : Instr) (s t : State), i ∈ [.xaMute, .xaDemute, .edcCheckMode1, .edcCheckMode2, .edcCheckAudio] ∨
      slotOf i = .submode →
    exec i s = .next t → t.chL = s.chL ∧ t.chR = s.chR

/-- R31, R36, R52, R59: every offset an operation reads lies in the sector: the submode byte of `EDC.CHECK` Mode2 is at 18
and the coding-info byte of `XA.DECODE` at 19; the largest offset of `XA.DECODE` is 2327, of `EDC.CHECK` 2351; and the
sizes of R55 and R56 fit together. -/
def Obligations.OffsetsStayInsideTheSector : Prop :=
  (∀ m : Memory, sectorForm cfg m = (if (m.read 18).getLsbD 5 then .form2 else .form1) ∧
    sectorCodingInfo cfg m = m.read 19) ∧
  (cfg.offSubmode = 18 ∧ cfg.offCodingInfo = 19 ∧ cfg.offSubmode ≤ 2351 ∧ cfg.offCodingInfo ≤ 2351 ∧
    readByXaDecode cfg.offCodingInfo = true) ∧
  (∀ blk b j, blk < 18 → b < 8 → j < 28 →
    readByXaDecode (soundParamOffset cfg blk b) = true ∧ readByXaDecode (nibbleOffset cfg blk b j) = true ∧
      soundParamOffset cfg blk b ≤ 2327 ∧ nibbleOffset cfg blk b j ≤ 2327) ∧
  nibbleOffset cfg 17 7 27 = 2327 ∧
  (∀ (tm : TrackMode) (m : Memory) (w : Window), checkedWindow cfg tm m = some w →
    w.lo ≤ w.hi ∧ w.hi = w.field ∧ w.field + 3 ≤ 2351) ∧
  GeometryFits cfg

/-! ### `XA.DECODE` as its items -/

/-- R57, R58, R89 to R91 and R94 of the whole operation: a supported `XA.DECODE` is the mode write, then, for every block
and in it every sub-block in ascending order, the sound-parameter item of the byte at `24 + 128*blk + 4 + b` with that
byte's high nibble as filter and its low nibble as raw shift, then the answer. `SoundParamDecodesItsSubBlock` and
`NibbleDecodesOneSample` say what such an item does, which is the model's choice of how to name a part of the operation
(log 5). -/
def Obligations.XaDecodeWalksItsItems : Prop :=
  (∀ (blk b : Nat) (x : Byte), blk < 18 → b < 8 →
    decodeAt (.soundParam blk b) x = .ok (.soundParam blk b (x.extractLsb' 4 4) (x.extractLsb' 0 4))) ∧
  ∀ (s : State) (ch : ChMode) (rate : Rate), codingModes (s.port.sector.read 19) = some (ch, rate) →
    ∃ t, execAll
        ((List.range 18).flatMap fun blk => (List.range 8).map fun b =>
          let sp := s.port.sector.read (24 + 128 * blk + 4 + b)
          .soundParam blk b (sp.extractLsb' 4 4) (sp.extractLsb' 0 4))
        (s.setModes ch rate) = .next t ∧
      exec .xaDecode s = .next (t.post (.decoded (t.chL.q.length - s.chL.q.length)))

/-! ### The configuration (R6) -/

/-- The configuration record is an argument of the machine (R6): a step under any record is the operation under that
record, and the machine of the host's interface is the one of the default record (the model's choice of log 6). -/
def Obligations.ConfigurationIsAnArgument : Prop :=
  (∀ (C : Cfg) (s : State) (r : Request) (rest : List HostEvent) (i : Instr),
    s.pending = .issue r :: rest → decodeCmd r.cmd = .ok i →
    stepOf C s = execOf C i { s with port := r, pending := rest }) ∧
  (∀ (i : Instr) (s : State), exec i s = execOf cfg i s) ∧ (∀ s : State, step s = stepOf cfg s) ∧
  State.reset = State.resetOf cfg

/-- `MUTE_RESET`, `RING_ENTRIES` and `SIXSTEP_PERIOD` under any record (R6, R20, R26, R120): reset, as a state and as an
event, and `XA.CLEAR`, which leaves `MUTE` alone. -/
def Obligations.ResetFollowsTheConfiguration : Prop :=
  ∀ C : Cfg,
    let x : ChanState := ⟨0, 0, List.replicate C.ringEntries 0, 0, C.sixstepPeriod, []⟩
    ((State.resetOf C).chL = x ∧ (State.resetOf C).chR = x ∧ (State.resetOf C).mute = C.muteReset) ∧
    (∀ (s : State) (rest : List HostEvent), s.pending = .reset :: rest →
      ∃ t, stepOf C s = .next t ∧ t.chL = x ∧ t.chR = x ∧ t.modeCh = .mono ∧ t.modeRate = .hz37800 ∧
        t.mute = C.muteReset) ∧
    ∀ s : State, execOf C .xaClear s = .next { s with chL := x, chR := x, results := s.results ++ [.done] }

/-- R112: with a finite `QUEUE_CAP`, the other defaults kept, `XA.DECODE` of a supported sector is what it is without one
where both queues stay within the capacity, and is refused where one would exceed it. -/
def Obligations.FiniteQueueCapRefuses : Prop :=
  ∀ (cap : Nat) (s : State) (ch : ChMode) (rate : Rate), codingModes (s.port.sector.read 19) = some (ch, rate) →
    s.chL.sixstep = 6 → s.chR.sixstep = 6 →
    (s.chL.q.length + outputsOf ch rate ≤ cap ∧ s.chR.q.length + outputsOf ch rate ≤ cap →
      execOf { cfg with queueCap := some cap } .xaDecode s = exec .xaDecode s) ∧
    (¬(s.chL.q.length + outputsOf ch rate ≤ cap ∧ s.chR.q.length + outputsOf ch rate ≤ cap) →
      execOf { cfg with queueCap := some cap } .xaDecode s = .refused .queueCapExceeded)

/-- R94 for one sample under any record: `XA_EFF_SHIFT`, `XA_FILTER` and `XA_DIV_MODE` decide the sample, the division
rounding toward zero under `trunc` and down under `floor`; the history moves on and the sample is fed. That the item has
this meaning is the model's choice (log 5). -/
def Obligations.NibbleFollowsTheConfiguration : Prop :=
  ∀ (C : Cfg) (b : Nat) (filter raw n : Nibble) (s : State),
    let c : Chan := if s.modeCh = .stereo ∧ b % 2 = 1 then .R else .L
    let x := s.chan c
    let num := (C.xaFilter filter).1 * x.old.toInt + (C.xaFilter filter).2 * x.older.toInt + 32
    ∃ y : Sample,
      y.toInt = clamp16 (sext4 n * 2 ^ C.xaEffShift raw +
        (if C.xaDivMode = .trunc then num.tdiv 64 else num / 64)) ∧
      execOf C (.nibble b filter raw n) s = .next (feed C c y (s.setChan c { x with old := y, older := x.old }))
end

