-- ==== Sys2Proof/Laws/State.lean ====
section
/-! SUPPORT. What each update of State leaves in each field, true by unfolding, so that no proof unfolds an update. -/

namespace Sys2Proof.Machine

/-! ### `State.setModes` -/

@[simp] theorem State.setModes_chL (s : State) (ch : ChMode) (rate : Rate) : (s.setModes ch rate).chL = s.chL := rfl
@[simp] theorem State.setModes_chR (s : State) (ch : ChMode) (rate : Rate) : (s.setModes ch rate).chR = s.chR := rfl
@[simp] theorem State.setModes_modeCh (s : State) (ch : ChMode) (rate : Rate) : (s.setModes ch rate).modeCh = ch := rfl
@[simp] theorem State.setModes_modeRate (s : State) (ch : ChMode) (rate : Rate) : (s.setModes ch rate).modeRate = rate := rfl
@[simp] theorem State.setModes_mute (s : State) (ch : ChMode) (rate : Rate) : (s.setModes ch rate).mute = s.mute := rfl
@[simp] theorem State.setModes_port (s : State) (ch : ChMode) (rate : Rate) : (s.setModes ch rate).port = s.port := rfl
@[simp] theorem State.setModes_pending (s : State) (ch : ChMode) (rate : Rate) : (s.setModes ch rate).pending = s.pending := rfl
@[simp] theorem State.setModes_results (s : State) (ch : ChMode) (rate : Rate) : (s.setModes ch rate).results = s.results := rfl

/-! ### `State.setMute` -/

@[simp] theorem State.setMute_chL (s : State) (v : Bool) : (s.setMute v).chL = s.chL := rfl
@[simp] theorem State.setMute_chR (s : State) (v : Bool) : (s.setMute v).chR = s.chR := rfl
@[simp] theorem State.setMute_modeCh (s : State) (v : Bool) : (s.setMute v).modeCh = s.modeCh := rfl
@[simp] theorem State.setMute_modeRate (s : State) (v : Bool) : (s.setMute v).modeRate = s.modeRate := rfl
@[simp] theorem State.setMute_mute (s : State) (v : Bool) : (s.setMute v).mute = v := rfl
@[simp] theorem State.setMute_port (s : State) (v : Bool) : (s.setMute v).port = s.port := rfl
@[simp] theorem State.setMute_pending (s : State) (v : Bool) : (s.setMute v).pending = s.pending := rfl
@[simp] theorem State.setMute_results (s : State) (v : Bool) : (s.setMute v).results = s.results := rfl

/-! ### `State.post` -/

@[simp] theorem State.post_chL (s : State) (v : OpResult) : (s.post v).chL = s.chL := rfl
@[simp] theorem State.post_chR (s : State) (v : OpResult) : (s.post v).chR = s.chR := rfl
@[simp] theorem State.post_modeCh (s : State) (v : OpResult) : (s.post v).modeCh = s.modeCh := rfl
@[simp] theorem State.post_modeRate (s : State) (v : OpResult) : (s.post v).modeRate = s.modeRate := rfl
@[simp] theorem State.post_mute (s : State) (v : OpResult) : (s.post v).mute = s.mute := rfl
@[simp] theorem State.post_port (s : State) (v : OpResult) : (s.post v).port = s.port := rfl
@[simp] theorem State.post_pending (s : State) (v : OpResult) : (s.post v).pending = s.pending := rfl
@[simp] theorem State.post_results (s : State) (v : OpResult) : (s.post v).results = s.results ++ [v] := rfl

/-! ### `State.raise` -/

@[simp] theorem State.raise_chL (s : State) (e : OpError) : (s.raise e).chL = s.chL := rfl
@[simp] theorem State.raise_chR (s : State) (e : OpError) : (s.raise e).chR = s.chR := rfl
@[simp] theorem State.raise_modeCh (s : State) (e : OpError) : (s.raise e).modeCh = s.modeCh := rfl
@[simp] theorem State.raise_modeRate (s : State) (e : OpError) : (s.raise e).modeRate = s.modeRate := rfl
@[simp] theorem State.raise_mute (s : State) (e : OpError) : (s.raise e).mute = s.mute := rfl
@[simp] theorem State.raise_port (s : State) (e : OpError) : (s.raise e).port = s.port := rfl
@[simp] theorem State.raise_pending (s : State) (e : OpError) : (s.raise e).pending = s.pending := rfl
@[simp] theorem State.raise_results (s : State) (e : OpError) : (s.raise e).results = s.results ++ [.error e] := rfl

/-! ### `State.accept` -/

@[simp] theorem State.accept_chL (s : State) (r : Request) (rest : List HostEvent) : (s.accept r rest).chL = s.chL := rfl
@[simp] theorem State.accept_chR (s : State) (r : Request) (rest : List HostEvent) : (s.accept r rest).chR = s.chR := rfl
@[simp] theorem State.accept_modeCh (s : State) (r : Request) (rest : List HostEvent) : (s.accept r rest).modeCh = s.modeCh := rfl
@[simp] theorem State.accept_modeRate (s : State) (r : Request) (rest : List HostEvent) : (s.accept r rest).modeRate = s.modeRate := rfl
@[simp] theorem State.accept_mute (s : State) (r : Request) (rest : List HostEvent) : (s.accept r rest).mute = s.mute := rfl
@[simp] theorem State.accept_port (s : State) (r : Request) (rest : List HostEvent) : (s.accept r rest).port = r := rfl
@[simp] theorem State.accept_pending (s : State) (r : Request) (rest : List HostEvent) : (s.accept r rest).pending = rest := rfl
@[simp] theorem State.accept_results (s : State) (r : Request) (rest : List HostEvent) : (s.accept r rest).results = s.results := rfl

/-! ### `State.setChan` and `State.chan` -/

@[simp] theorem State.chan_L (s : State) : s.chan .L = s.chL := rfl
@[simp] theorem State.setChan_L_chL (s : State) (x : ChanState) : (s.setChan .L x).chL = x := rfl
@[simp] theorem State.setChan_L_chR (s : State) (x : ChanState) : (s.setChan .L x).chR = s.chR := rfl
@[simp] theorem State.setChan_L_modeCh (s : State) (x : ChanState) : (s.setChan .L x).modeCh = s.modeCh := rfl
@[simp] theorem State.setChan_L_modeRate (s : State) (x : ChanState) : (s.setChan .L x).modeRate = s.modeRate := rfl
@[simp] theorem State.setChan_L_mute (s : State) (x : ChanState) : (s.setChan .L x).mute = s.mute := rfl
@[simp] theorem State.setChan_L_port (s : State) (x : ChanState) : (s.setChan .L x).port = s.port := rfl
@[simp] theorem State.setChan_L_pending (s : State) (x : ChanState) : (s.setChan .L x).pending = s.pending := rfl
@[simp] theorem State.setChan_L_results (s : State) (x : ChanState) : (s.setChan .L x).results = s.results := rfl
@[simp] theorem State.chan_R (s : State) : s.chan .R = s.chR := rfl
@[simp] theorem State.setChan_R_chL (s : State) (x : ChanState) : (s.setChan .R x).chL = s.chL := rfl
@[simp] theorem State.setChan_R_chR (s : State) (x : ChanState) : (s.setChan .R x).chR = x := rfl
@[simp] theorem State.setChan_R_modeCh (s : State) (x : ChanState) : (s.setChan .R x).modeCh = s.modeCh := rfl
@[simp] theorem State.setChan_R_modeRate (s : State) (x : ChanState) : (s.setChan .R x).modeRate = s.modeRate := rfl
@[simp] theorem State.setChan_R_mute (s : State) (x : ChanState) : (s.setChan .R x).mute = s.mute := rfl
@[simp] theorem State.setChan_R_port (s : State) (x : ChanState) : (s.setChan .R x).port = s.port := rfl
@[simp] theorem State.setChan_R_pending (s : State) (x : ChanState) : (s.setChan .R x).pending = s.pending := rfl
@[simp] theorem State.setChan_R_results (s : State) (x : ChanState) : (s.setChan .R x).results = s.results := rfl

@[simp] theorem State.setChan_modeCh (s : State) (c : Chan) (x : ChanState) : (s.setChan c x).modeCh = s.modeCh := by
  cases c <;> rfl
@[simp] theorem State.setChan_modeRate (s : State) (c : Chan) (x : ChanState) : (s.setChan c x).modeRate = s.modeRate := by
  cases c <;> rfl
@[simp] theorem State.setChan_mute (s : State) (c : Chan) (x : ChanState) : (s.setChan c x).mute = s.mute := by
  cases c <;> rfl
@[simp] theorem State.setChan_port (s : State) (c : Chan) (x : ChanState) : (s.setChan c x).port = s.port := by
  cases c <;> rfl
@[simp] theorem State.setChan_pending (s : State) (c : Chan) (x : ChanState) : (s.setChan c x).pending = s.pending := by
  cases c <;> rfl
@[simp] theorem State.setChan_results (s : State) (c : Chan) (x : ChanState) : (s.setChan c x).results = s.results := by
  cases c <;> rfl

@[simp] theorem State.chan_setChan (s : State) (c : Chan) (x : ChanState) : (s.setChan c x).chan c = x := by
  cases c <;> rfl

theorem State.chan_setChan_of_ne (s : State) {c d : Chan} (x : ChanState) (h : d ≠ c) :
    (s.setChan c x).chan d = s.chan d := by
  cases c <;> cases d <;> first | rfl | exact absurd rfl h

/-! ### Updates of a channel -/

@[simp] theorem ChanState.enqueue_old (x : ChanState) (ys : List Sample) : (x.enqueue ys).old = x.old := rfl
@[simp] theorem ChanState.enqueue_older (x : ChanState) (ys : List Sample) : (x.enqueue ys).older = x.older := rfl
@[simp] theorem ChanState.enqueue_ring (x : ChanState) (ys : List Sample) : (x.enqueue ys).ring = x.ring := rfl
@[simp] theorem ChanState.enqueue_p (x : ChanState) (ys : List Sample) : (x.enqueue ys).p = x.p := rfl
@[simp] theorem ChanState.enqueue_sixstep (x : ChanState) (ys : List Sample) : (x.enqueue ys).sixstep = x.sixstep := rfl
@[simp] theorem ChanState.enqueue_q (x : ChanState) (ys : List Sample) : (x.enqueue ys).q = x.q ++ ys := rfl
@[simp] theorem ChanState.remember_old (x : ChanState) (y : Sample) : (x.remember y).old = y := rfl
@[simp] theorem ChanState.remember_older (x : ChanState) (y : Sample) : (x.remember y).older = x.old := rfl
@[simp] theorem ChanState.remember_ring (x : ChanState) (y : Sample) : (x.remember y).ring = x.ring := rfl
@[simp] theorem ChanState.remember_p (x : ChanState) (y : Sample) : (x.remember y).p = x.p := rfl
@[simp] theorem ChanState.remember_sixstep (x : ChanState) (y : Sample) : (x.remember y).sixstep = x.sixstep := rfl
@[simp] theorem ChanState.remember_q (x : ChanState) (y : Sample) : (x.remember y).q = x.q := rfl
@[simp] theorem ChanState.dequeue_old (x : ChanState) : x.dequeue.old = x.old := rfl
@[simp] theorem ChanState.dequeue_older (x : ChanState) : x.dequeue.older = x.older := rfl
@[simp] theorem ChanState.dequeue_ring (x : ChanState) : x.dequeue.ring = x.ring := rfl
@[simp] theorem ChanState.dequeue_p (x : ChanState) : x.dequeue.p = x.p := rfl
@[simp] theorem ChanState.dequeue_sixstep (x : ChanState) : x.dequeue.sixstep = x.sixstep := rfl
@[simp] theorem ChanState.dequeue_q (x : ChanState) : x.dequeue.q = x.q.tail := rfl

@[simp] theorem ChanState.advance_old (C : Cfg) (x : ChanState) (y : Sample) : (x.advance C y).old = x.old := rfl
@[simp] theorem ChanState.advance_older (C : Cfg) (x : ChanState) (y : Sample) : (x.advance C y).older = x.older := rfl
@[simp] theorem ChanState.advance_ring (C : Cfg) (x : ChanState) (y : Sample) : (x.advance C y).ring = x.ring.set x.p y := rfl
@[simp] theorem ChanState.advance_p (C : Cfg) (x : ChanState) (y : Sample) : (x.advance C y).p = (x.p + 1) % C.ringEntries := rfl
@[simp] theorem ChanState.advance_sixstep (C : Cfg) (x : ChanState) (y : Sample) : (x.advance C y).sixstep = x.sixstep - 1 := rfl
@[simp] theorem ChanState.advance_q (C : Cfg) (x : ChanState) (y : Sample) : (x.advance C y).q = x.q := rfl

end Sys2Proof.Machine
end

