-- ==== Sys2Proof/Laws/Memory.lean ====
section
/-! SUPPORT. The sector's bytes: what a write leaves to be read, and that every operation on a memory keeps its canonical
form. -/

namespace Sys2Proof.Machine

@[simp] theorem Memory.read_nil (a : Nat) : Memory.read [] a = 0 := rfl

theorem Memory.read_cons (k : Nat) (x : Byte) (m : Memory) (a : Nat) :
    Memory.read ((k, x) :: m) a = if a = k then x else m.read a := by
  by_cases h : a = k
  · subst h; simp [Memory.read, List.lookup]
  · have hb : (a == k) = false := by simpa using h
    simp [Memory.read, List.lookup, hb, h]

/-- Below every listed offset a byte reads 0. -/
theorem Memory.read_of_lt {m : Memory} {a : Nat} (h : ∀ c ∈ m, a < c.1) : m.read a = 0#8 := by
  induction m with
  | nil => rfl
  | cons c m ih =>
    obtain ⟨k, x⟩ := c
    have hk : a < k := h (k, x) (by simp)
    rw [Memory.read_cons, if_neg (by omega)]
    exact ih fun c hc => h c (by simp [hc])

/-- Where an inserted byte's cell can lie. -/
theorem Memory.insert_mem {a : Nat} {v : Byte} {m : Memory} {c : Host.Cell} (h : c ∈ Memory.insert a v m) :
    (c = (a, v) ∧ v ≠ 0#8) ∨ c ∈ m := by
  induction m with
  | nil => by_cases hv : v = 0#8 <;> simp_all [Memory.insert]
  | cons d m ih =>
    obtain ⟨k, x⟩ := d
    by_cases hv : v = 0#8 <;> rcases Nat.lt_trichotomy a k with h1 | h1 | h1 <;>
      simp_all [Memory.insert, Nat.not_lt_of_gt, Nat.ne_of_gt] <;> tauto

theorem Memory.insert_sorted {a : Nat} {v : Byte} {m : Memory} (h : m.Pairwise fun c d => c.1 < d.1) :
    (Memory.insert a v m).Pairwise fun c d => c.1 < d.1 := by
  induction m with
  | nil => by_cases hv : v = 0#8 <;> simp [Memory.insert, hv]
  | cons d m ih =>
    obtain ⟨k, x⟩ := d
    obtain ⟨h1, h2⟩ := List.pairwise_cons.mp h
    rcases Nat.lt_trichotomy a k with hak | hak | hak
    · by_cases hv : v = 0#8
      · simpa [Memory.insert, hak, hv] using h
      · refine (by simp [Memory.insert, hak, hv] :
          Memory.insert a v ((k, x) :: m) = (a, v) :: (k, x) :: m) ▸ List.pairwise_cons.mpr ⟨?_, h⟩
        intro c hc
        rcases List.mem_cons.mp hc with rfl | hc
        · exact hak
        · exact Nat.lt_trans hak (h1 c hc)
    · subst hak
      by_cases hv : v = 0#8
      · simpa [Memory.insert, hv] using h2
      · simpa [Memory.insert, hv] using List.pairwise_cons.mpr ⟨h1, h2⟩
    · have e : Memory.insert a v ((k, x) :: m) = (k, x) :: Memory.insert a v m := by
        simp [Memory.insert, Nat.not_lt_of_gt hak, Nat.ne_of_gt hak]
      refine e ▸ List.pairwise_cons.mpr ⟨?_, ih h2⟩
      intro c hc
      rcases Memory.insert_mem hc with ⟨rfl, -⟩ | hc
      · exact hak
      · exact h1 c hc

/-- A write keeps the canonical form, under every configuration. -/
theorem Memory.writeOf_wf {C : Cfg} {m : Memory} (h : m.wfOf C) (a : Nat) (v : Byte) : (m.writeOf C a v).wfOf C := by
  unfold Memory.writeOf
  split
  · refine ⟨Memory.insert_sorted h.1, fun c hc => ?_⟩
    rcases Memory.insert_mem hc with ⟨rfl, hv⟩ | hc
    · exact ⟨by assumption, hv⟩
    · exact h.2 c hc
  · exact h

theorem Memory.write_wf {m : Memory} (h : m.wf) (a : Nat) (v : Byte) : (m.write a v).wf := Memory.writeOf_wf h a v

theorem Memory.read_insert {m : Memory} (h : m.Pairwise fun c d => c.1 < d.1) (a : Nat) (v : Byte) (b : Nat) :
    (Memory.insert a v m).read b = if b = a then v else m.read b := by
  induction m with
  | nil => by_cases hv : v = 0#8 <;> simp [Memory.insert, hv, Memory.read_cons]
  | cons d m ih =>
    obtain ⟨k, x⟩ := d
    obtain ⟨h1, h2⟩ := List.pairwise_cons.mp h
    have hm : Memory.read m k = 0#8 := Memory.read_of_lt h1
    rcases Nat.lt_trichotomy a k with hak | hak | hak
    · have ha : Memory.read m a = 0#8 := Memory.read_of_lt fun c hc => Nat.lt_trans hak (h1 c hc)
      have hne : a ≠ k := Nat.ne_of_lt hak
      by_cases hv : v = 0#8
      · subst hv
        simp only [Memory.insert, hak, if_true, Memory.read_cons]
        by_cases hb : b = a
        · subst hb; simp [hne, ha]
        · simp [hb]
      · simp [Memory.insert, hak, hv, Memory.read_cons]
    · subst hak
      by_cases hv : v = 0#8
      · subst hv
        simp only [Memory.insert, Nat.lt_irrefl, if_true, if_false, Memory.read_cons]
        by_cases hb : b = a
        · subst hb; simp [hm]
        · simp [hb]
      · simp only [Memory.insert, Nat.lt_irrefl, hv, if_true, if_false, Memory.read_cons]
        by_cases hb : b = a <;> simp [hb]
    · have hne : k ≠ a := Nat.ne_of_lt hak
      simp only [Memory.insert, Nat.not_lt_of_gt hak, Nat.ne_of_gt hak, if_false, Memory.read_cons, ih h2]
      by_cases hb : b = k
      · subst hb; simp [hne]
      · simp [hb]

/-- A read after a write: the byte written there, every other byte as before. -/
theorem Memory.read_writeOf {C : Cfg} {m : Memory} (h : m.wfOf C) {a : Nat} (ha : a < C.sectorBytes) (v : Byte) (b : Nat) :
    (m.writeOf C a v).read b = if b = a then v else m.read b := by
  rw [Memory.writeOf, if_pos ha, Memory.read_insert h.1]

theorem Memory.read_write {m : Memory} (h : m.wf) {a : Nat} (ha : a < cfg.sectorBytes) (v : Byte) (b : Nat) :
    (m.write a v).read b = if b = a then v else m.read b := Memory.read_writeOf h ha v b

theorem Memory.cellsFrom_mem {xs : List Byte} {a : Nat} {c : Host.Cell} (h : c ∈ Memory.cellsFrom a xs) :
    a ≤ c.1 ∧ c.1 < a + xs.length ∧ c.2 ≠ 0#8 := by
  induction xs generalizing a with
  | nil => simp [Memory.cellsFrom] at h
  | cons x xs ih =>
    simp only [Memory.cellsFrom] at h
    split at h
    · have h' := ih h
      exact ⟨by omega, by rw [List.length_cons]; omega, h'.2.2⟩
    · rcases List.mem_cons.mp h with rfl | h
      · exact ⟨Nat.le_refl a, by simp, by assumption⟩
      · have h' := ih h
        exact ⟨by omega, by rw [List.length_cons]; omega, h'.2.2⟩

theorem Memory.cellsFrom_sorted (a : Nat) (xs : List Byte) :
    (Memory.cellsFrom a xs).Pairwise fun c d => c.1 < d.1 := by
  induction xs generalizing a with
  | nil => simp [Memory.cellsFrom]
  | cons x xs ih =>
    simp only [Memory.cellsFrom]
    split
    · exact ih (a + 1)
    · exact List.pairwise_cons.mpr ⟨fun c hc => (Memory.cellsFrom_mem hc).1, ih (a + 1)⟩

/-- A sector given by its bytes is in canonical form. -/
theorem Memory.ofBytesOf_wf (C : Cfg) (xs : List Byte) : (Memory.ofBytesOf C xs).wfOf C := by
  refine ⟨Memory.cellsFrom_sorted 0 _, fun c hc => ?_⟩
  obtain ⟨-, h2, h3⟩ := Memory.cellsFrom_mem hc
  simp only [List.length_take] at h2
  exact ⟨by omega, h3⟩

theorem Memory.ofBytes_wf (xs : List Byte) : (Memory.ofBytes xs).wf := Memory.ofBytesOf_wf cfg xs

theorem Memory.read_cellsFrom (xs : List Byte) (a b : Nat) :
    (Memory.cellsFrom a xs).read b = if a ≤ b then xs.getD (b - a) 0 else 0 := by
  induction xs generalizing a with
  | nil => simp [Memory.cellsFrom]
  | cons x xs ih =>
    rcases Nat.lt_trichotomy b a with h | h | h
    · rw [if_neg (by omega)]
      exact Memory.read_of_lt fun c hc => Nat.lt_of_lt_of_le h (Memory.cellsFrom_mem hc).1
    · subst h
      simp only [Memory.cellsFrom]
      split
      · rw [ih, if_neg (by omega)]; simp_all
      · simp [Memory.read_cons]
    · have e : b - a = (b - (a + 1)) + 1 := by omega
      simp only [Memory.cellsFrom]
      split
      · rw [ih, if_pos (by omega), if_pos (by omega), e, List.getD_cons_succ]
      · rw [Memory.read_cons, if_neg (by omega), ih, if_pos (by omega), if_pos (by omega), e, List.getD_cons_succ]

/-- A sector given by its bytes reads back as those bytes. -/
theorem Memory.read_ofBytesOf {C : Cfg} (xs : List Byte) (h : xs.length ≤ C.sectorBytes) (a : Nat) :
    (Memory.ofBytesOf C xs).read a = xs.getD a 0 := by
  rw [Memory.ofBytesOf, List.take_of_length_le h, Memory.read_cellsFrom]
  simp

theorem Memory.read_ofBytes (xs : List Byte) (h : xs.length ≤ cfg.sectorBytes) (a : Nat) :
    (Memory.ofBytes xs).read a = xs.getD a 0 := Memory.read_ofBytesOf xs h a

/-- A run of bytes is read in two parts as in one. -/
theorem Memory.readBytes_add (m : Memory) (a n k : Nat) :
    m.readBytes a (n + k) = m.readBytes a n ++ m.readBytes (a + n) k := by
  simp [Memory.readBytes, List.range_add, Function.comp_def, Nat.add_assoc]

theorem Memory.mem_readBytes {m : Memory} {a n : Nat} {x : Byte} (h : x ∈ m.readBytes a n) :
    ∃ b, a ≤ b ∧ b < a + n ∧ m.read b = x := by
  obtain ⟨i, hi, rfl⟩ := List.mem_map.mp h
  exact ⟨a + i, by omega, by have := List.mem_range.mp hi; omega, rfl⟩

/-- The reset state's sector is in canonical form. -/
theorem State.reset_sector_wf : State.reset.port.sector.wf :=
  ⟨List.Pairwise.nil, fun _ h => absurd h (by simp [State.reset, State.resetOf, Request.idle])⟩

end Sys2Proof.Machine
end

