-- ==== Sys2Proof/Laws/Ops.lean ====
section
/-! SUPPORT. One lemma per shared operation that says what it can do, to be cited instead of unfolding it. -/

namespace Sys2Proof.Machine

/-! ### What the decoder's procedures leave alone -/

/-- Everything but the two channels is the same: the relation every procedure of the decoder keeps. -/
structure OnlyChannels (s t : State) : Prop where
  modeCh : t.modeCh = s.modeCh
  modeRate : t.modeRate = s.modeRate
  mute : t.mute = s.mute
  port : t.port = s.port
  pending : t.pending = s.pending
  results : t.results = s.results

theorem OnlyChannels.refl (s : State) : OnlyChannels s s := ⟨rfl, rfl, rfl, rfl, rfl, rfl⟩

theorem OnlyChannels.trans {s t u : State} (h : OnlyChannels s t) (k : OnlyChannels t u) : OnlyChannels s u :=
  ⟨k.modeCh.trans h.modeCh, k.modeRate.trans h.modeRate, k.mute.trans h.mute, k.port.trans h.port,
    k.pending.trans h.pending, k.results.trans h.results⟩

/-- A relation between states that each step of a loop keeps, the whole loop keeps. -/
theorem foldl_keeps {α σ : Type} {R : σ → σ → Prop} (refl : ∀ s, R s s) (trans : ∀ s t u, R s t → R t u → R s u)
    (f : σ → α → σ) (h : ∀ s a, R s (f s a)) (l : List α) (s : σ) : R s (l.foldl f s) := by
  induction l generalizing s with
  | nil => exact refl s
  | cons a l ih => exact trans _ _ _ (h s a) (ih (f s a))

theorem setChan_onlyChannels (s : State) (c : Chan) (x : ChanState) : OnlyChannels s (s.setChan c x) := by
  cases c <;> exact ⟨rfl, rfl, rfl, rfl, rfl, rfl⟩

theorem emit_onlyChannels (c : Chan) (ys : List Sample) (s : State) : OnlyChannels s (emit c ys s) := by
  unfold emit
  split
  · exact setChan_onlyChannels s c _
  · exact ⟨rfl, rfl, rfl, rfl, rfl, rfl⟩

theorem push_onlyChannels (C : Cfg) (c : Chan) (y : Sample) (s : State) : OnlyChannels s (push C c y s) := by
  unfold push
  dsimp only
  split
  · exact (setChan_onlyChannels s c _).trans (emit_onlyChannels c _ _)
  · exact setChan_onlyChannels s c _

theorem feed_onlyChannels (C : Cfg) (c : Chan) (y : Sample) (s : State) : OnlyChannels s (feed C c y s) := by
  unfold feed
  split
  · exact push_onlyChannels C c y s
  · exact (push_onlyChannels C c y s).trans (push_onlyChannels C c y _)

theorem decodeSample_onlyChannels (C : Cfg) (c : Chan) (filter raw n : Nibble) (s : State) :
    OnlyChannels s (decodeSample C c filter raw n s) :=
  (setChan_onlyChannels s c _).trans (feed_onlyChannels C c _ _)

theorem decodeSamples_onlyChannels (C : Cfg) (c : Chan) (blk b : Nat) (filter raw : Nibble) (s : State) :
    OnlyChannels s (decodeSamples C c blk b filter raw s) :=
  foldl_keeps OnlyChannels.refl (fun _ _ _ => OnlyChannels.trans) _
    (fun s _ => decodeSample_onlyChannels C c filter raw _ s) _ s

theorem decodeSubBlock_onlyChannels (C : Cfg) (blk b : Nat) (s : State) : OnlyChannels s (decodeSubBlock C blk b s) :=
  decodeSamples_onlyChannels C _ blk b _ _ s

theorem decodeBlock_onlyChannels (C : Cfg) (blk : Nat) (s : State) : OnlyChannels s (decodeBlock C blk s) :=
  foldl_keeps OnlyChannels.refl (fun _ _ _ => OnlyChannels.trans) _
    (fun s b => decodeSubBlock_onlyChannels C blk b s) _ s

theorem decodeBlocks_onlyChannels (C : Cfg) (s : State) : OnlyChannels s (decodeBlocks C s) :=
  foldl_keeps OnlyChannels.refl (fun _ _ _ => OnlyChannels.trans) _
    (fun s blk => decodeBlock_onlyChannels C blk s) _ s

/-! ### What emitting and pushing do to the channels -/

theorem emit_stereo {s : State} (h : s.modeCh = .stereo) (c : Chan) (ys : List Sample) :
    emit c ys s = s.setChan c ((s.chan c).enqueue ys) := by
  simp [emit, h]

theorem emit_mono {s : State} (h : s.modeCh = .mono) (c : Chan) (ys : List Sample) :
    emit c ys s = { s with chL := s.chL.enqueue ys, chR := s.chR.enqueue ys } := by
  simp [emit, h]

/-- A push either emits, the counter reloaded, or only writes the ring. -/
theorem push_cases (C : Cfg) (c : Chan) (y : Sample) (s : State) :
    ((s.chan c).sixstep ≤ 1 ∧
      push C c y s = emit c (zigzagOutputs C ((s.chan c).advance C y))
        (s.setChan c { (s.chan c).advance C y with sixstep := C.sixstepPeriod })) ∨
    (1 < (s.chan c).sixstep ∧ push C c y s = s.setChan c ((s.chan c).advance C y)) := by
  unfold push
  dsimp only
  split
  · rename_i h
    rw [ChanState.advance_sixstep] at h
    exact .inl ⟨by omega, rfl⟩
  · rename_i h
    rw [ChanState.advance_sixstep] at h
    exact .inr ⟨by omega, rfl⟩

theorem zigzagOutputs_length (C : Cfg) (x : ChanState) : (zigzagOutputs C x).length = C.zigzagPhases := by
  simp [zigzagOutputs]

/-- The number of a clamped sample is the clamped number. -/
theorem toSample_toInt (v : Int) : (toSample v).toInt = clamp16 v := by
  have h : -32768 ≤ clamp16 v ∧ clamp16 v ≤ 32767 := by unfold clamp16; split_ifs <;> omega
  rw [toSample, BitVec.toInt_ofInt, Int.bmod_eq_of_le] <;> omega

/-! ### The checksum -/

/-- The checksum of bytes in two parts is that of the second continued from the first. -/
theorem edc_append (C : Cfg) (xs ys : List Byte) :
    edc C (xs ++ ys) = ys.foldl (crcByte C) (xs.foldl (crcByte C) C.edcInit) ^^^ C.edcXorOut := by
  rw [edc, List.foldl_append]

theorem crcByte_zero (C : Cfg) : crcByte C 0 0 = 0 := by
  simp [crcByte, crcBits8, crcBit]

/-- Zero bytes leave a zero checksum zero (R76). -/
theorem crc_of_zeros (C : Cfg) {xs : List Byte} (h : ∀ x ∈ xs, x = 0) : xs.foldl (crcByte C) 0 = 0 := by
  induction xs with
  | nil => rfl
  | cons x xs ih =>
    rw [List.foldl_cons, h x (by simp), crcByte_zero]
    exact ih fun y hy => h y (by simp [hy])

/-- A window of zero bytes has checksum 0 under the default configuration (R76). -/
theorem windowEdc_of_zeros {m : Memory} {w : Window} (h : ∀ a, w.lo ≤ a → a < w.hi → m.read a = 0) :
    windowEdc cfg m w = 0 := by
  have e : ∀ x ∈ m.readBytes w.lo (w.hi - w.lo), x = 0 := by
    intro x hx
    obtain ⟨b, h1, h2, rfl⟩ := Memory.mem_readBytes hx
    exact h b h1 (by omega)
  simpa [windowEdc, edc, cfg] using crc_of_zeros cfg e

/-! ### How an operation ends -/

/-- A check posts one result and changes nothing else. -/
theorem checkWindow_cases (C : Cfg) (w : Window) (s : State) :
    ∃ v, checkWindow C w s = s.post v ∧
      (v = .skipped ∧ w.skipZero = true ∧ s.port.sector.read32 w.field = 0 ∨
        v = .valid ∧ windowEdc C s.port.sector w = s.port.sector.read32 w.field ∨
        v = .error (.edcMismatch s.port.track s.port.sectorNo (s.port.sector.read32 w.field)
              (windowEdc C s.port.sector w)) ∧
          windowEdc C s.port.sector w ≠ s.port.sector.read32 w.field) := by
  unfold checkWindow
  dsimp only
  split
  · rename_i h
    rw [Bool.and_eq_true, beq_iff_eq] at h
    exact ⟨_, rfl, .inl ⟨rfl, h⟩⟩
  · split
    · rename_i h
      exact ⟨_, rfl, .inr (.inl ⟨rfl, h⟩)⟩
    · rename_i h
      exact ⟨_, rfl, .inr (.inr ⟨rfl, h⟩)⟩

/-- A pop posts one pair, of silence when muted or when nothing is queued. -/
theorem popPair_cases (s : State) :
    (s.chL.q = [] ∧ s.chR.q = [] ∧ popPair s = s.post (.pair 0 0)) ∨
    ((s.chL.q ≠ [] ∨ s.chR.q ≠ []) ∧
      popPair s = State.post { s with chL := s.chL.dequeue, chR := s.chR.dequeue }
        (mutePair s.mute s.chL.head s.chR.head)) := by
  unfold popPair
  split
  · rename_i h
    exact .inl ⟨h.1, h.2, rfl⟩
  · rename_i h
    exact .inr ⟨by tauto, rfl⟩

/-- A coding-info byte is unsupported and answered by the error, or it selects modes and the sector is decoded. -/
theorem decodeWithCoding_cases (C : Cfg) (ci : Byte) (s : State) :
    (codingModes ci = none ∧ decodeWithCoding C ci s = .next (s.raise (.xaUnsupportedCoding ci))) ∨
    ∃ ch rate, codingModes ci = some (ch, rate) ∧ decodeWithCoding C ci s = decodeSector C ch rate s := by
  unfold decodeWithCoding
  rcases h : codingModes ci with _ | ⟨ch, rate⟩
  · exact .inl ⟨rfl, rfl⟩
  · exact .inr ⟨ch, rate, rfl, rfl⟩

/-- Without a queue capacity a sector is always decoded (R112). -/
theorem decodeSector_next {C : Cfg} (h : C.queueCap = none) (ch : ChMode) (rate : Rate) (s : State) :
    decodeSector C ch rate s =
      .next ((decodeBlocks C (s.setModes ch rate)).post
        (.decoded ((decodeBlocks C (s.setModes ch rate)).chL.q.length - s.chL.q.length))) := by
  simp [decodeSector, h]

/-- A sector is decoded, or refused because a queue would exceed the capacity (R112). -/
theorem decodeSector_cases (C : Cfg) (ch : ChMode) (rate : Rate) (s : State) :
    ((∀ cap, C.queueCap = some cap → queuesWithin cap (decodeBlocks C (s.setModes ch rate)) = true) ∧
      decodeSector C ch rate s =
        .next ((decodeBlocks C (s.setModes ch rate)).post
          (.decoded ((decodeBlocks C (s.setModes ch rate)).chL.q.length - s.chL.q.length)))) ∨
    (∃ cap, C.queueCap = some cap ∧ queuesWithin cap (decodeBlocks C (s.setModes ch rate)) = false ∧
      decodeSector C ch rate s = .refused .queueCapExceeded) := by
  unfold decodeSector
  dsimp only
  split
  · rename_i h
    exact .inl ⟨fun cap hc => (by rw [h] at hc; cases hc), rfl⟩
  · rename_i cap h
    split
    · rename_i hq
      exact .inl ⟨fun cap' hc => (by rw [h] at hc; cases hc; exact hq), rfl⟩
    · rename_i hq
      exact .inr ⟨cap, h, by simpa using hq, rfl⟩

/-- A sound-parameter item decodes the samples of its sub-block, or faults where there is none. -/
theorem subBlockItem_cases (C : Cfg) (blk b : Nat) (filter raw : Nibble) (s : State) :
    ((blk < C.xaBlocks ∧ b < C.xaSubblocks) ∧
      subBlockItem C blk b filter raw s = .next (decodeSamples C (chanOf s.modeCh b) blk b filter raw s)) ∨
    (¬(blk < C.xaBlocks ∧ b < C.xaSubblocks) ∧
      subBlockItem C blk b filter raw s = .fault .offsetOutsideSector) := by
  unfold subBlockItem
  split
  · exact .inl ⟨by assumption, rfl⟩
  · exact .inr ⟨by assumption, rfl⟩

end Sys2Proof.Machine
end

