-- ==== Sys2Proof/Laws/PerInstr.lean ====
section
/-! SUPPORT. Statements about every instruction as written: the bits of its encoding that the table fixes are those of its
row in spec/opcode_table.json. -/

namespace Sys2Proof.Laws.FixedBits

/-- The byte of an instruction or item matches its row: under the row's mask it is the row's value, and it has no bit
above the row's width. -/
def Statement (i : Instr) : Prop :=
  encode i &&& (tableRow i).mask = (tableRow i).value ∧ (encode i).toNat < 2 ^ (tableRow i).width

theorem xaClear : Statement .xaClear := ⟨by decide, by decide⟩

theorem xaDecode : Statement .xaDecode := ⟨by decide, by decide⟩

theorem xaPop : Statement .xaPop := ⟨by decide, by decide⟩

theorem xaMute : Statement .xaMute := ⟨by decide, by decide⟩

theorem xaDemute : Statement .xaDemute := ⟨by decide, by decide⟩

theorem edcCheckMode1 : Statement .edcCheckMode1 := ⟨by decide, by decide⟩

theorem edcCheckMode2 : Statement .edcCheckMode2 := ⟨by decide, by decide⟩

theorem edcCheckAudio : Statement .edcCheckAudio := ⟨by decide, by decide⟩

theorem submode (hi : BitVec 2) (form : Form) (lo : BitVec 5) : Statement (.submode hi form lo) :=
  ⟨by simp [tableRow], BitVec.isLt _⟩

theorem codingInfo (x e : BitVec 1) (bb rr cc : BitVec 2) : Statement (.codingInfo x e bb rr cc) :=
  ⟨by simp [tableRow], BitVec.isLt _⟩

theorem codingInfoMono37800 (xe : BitVec 2) : Statement (.codingInfoMono37800 xe) :=
  ⟨by revert xe; decide, BitVec.isLt _⟩

theorem codingInfoStereo37800 (xe : BitVec 2) : Statement (.codingInfoStereo37800 xe) :=
  ⟨by revert xe; decide, BitVec.isLt _⟩

theorem codingInfoMono18900 (xe : BitVec 2) : Statement (.codingInfoMono18900 xe) :=
  ⟨by revert xe; decide, BitVec.isLt _⟩

theorem codingInfoStereo18900 (xe : BitVec 2) : Statement (.codingInfoStereo18900 xe) :=
  ⟨by revert xe; decide, BitVec.isLt _⟩

theorem soundParam (blk b : Nat) (filter raw : Nibble) : Statement (.soundParam blk b filter raw) :=
  ⟨by simp [tableRow], BitVec.isLt _⟩

theorem soundParamFilter0 (blk b : Nat) (xx : BitVec 2) (raw : Nibble) : Statement (.soundParamFilter0 blk b xx raw) :=
  ⟨by revert xx raw; simp only [encode, tableRow]; decide, BitVec.isLt _⟩

theorem soundParamFilter1 (blk b : Nat) (xx : BitVec 2) (raw : Nibble) : Statement (.soundParamFilter1 blk b xx raw) :=
  ⟨by revert xx raw; simp only [encode, tableRow]; decide, BitVec.isLt _⟩

theorem soundParamFilter2 (blk b : Nat) (xx : BitVec 2) (raw : Nibble) : Statement (.soundParamFilter2 blk b xx raw) :=
  ⟨by revert xx raw; simp only [encode, tableRow]; decide, BitVec.isLt _⟩

theorem soundParamFilter3 (blk b : Nat) (xx : BitVec 2) (raw : Nibble) : Statement (.soundParamFilter3 blk b xx raw) :=
  ⟨by revert xx raw; simp only [encode, tableRow]; decide, BitVec.isLt _⟩

theorem nibble (b : Nat) (filter raw n : Nibble) : Statement (.nibble b filter raw n) :=
  ⟨by simp [tableRow], by simp only [encode, tableRow]; revert n; decide⟩

end Sys2Proof.Laws.FixedBits
end

