-- ==== Sys2Proof/Laws/Step.lean ====
section
/-! SUPPORT. What one step can do, said once (step_cases), and what the decoder can answer. -/

namespace Sys2Proof.Machine

/-- A step, of any configuration and meaning of the instructions, is idle, a reset, an operation, or the answer to an
illegal command word. -/
theorem stepBy_cases (C : Cfg) (run : Instr → State → Host.Outcome State Fault Refusal) (s : State) :
    (s.pending = [] ∧ stepBy C run s = .next s) ∨
    (∃ rest, s.pending = .reset :: rest ∧
      stepBy C run s = .next { State.resetOf C with pending := rest, results := s.results }) ∨
    (∃ r rest i, s.pending = .issue r :: rest ∧ decodeCmd r.cmd = .ok i ∧ stepBy C run s = run i (s.accept r rest)) ∨
    (∃ r rest e, s.pending = .issue r :: rest ∧ decodeCmd r.cmd = .error e ∧
      stepBy C run s = .next ((s.accept r rest).raise (.illegalCommand r.cmd))) := by
  rcases h : s.pending with _ | ⟨_ | _, rest⟩
  · exact .inl ⟨rfl, by simp [stepBy, h, idle]⟩
  · rename_i r
    rcases hd : decodeCmd r.cmd with e | i
    · exact .inr (.inr (.inr ⟨r, rest, e, rfl, hd, by simp [stepBy, h, issueBy, hd, illegalCommand]⟩))
    · exact .inr (.inr (.inl ⟨r, rest, i, rfl, hd, by simp [stepBy, h, issueBy, hd]⟩))
  · exact .inr (.inl ⟨rest, rfl, by simp [stepBy, h, resetBlock]⟩)

/-- A step under the default configuration. -/
theorem step_cases (s : State) :
    (s.pending = [] ∧ step s = .next s) ∨
    (∃ rest, s.pending = .reset :: rest ∧ step s = .next { State.reset with pending := rest, results := s.results }) ∨
    (∃ r rest i, s.pending = .issue r :: rest ∧ decodeCmd r.cmd = .ok i ∧ step s = exec i (s.accept r rest)) ∨
    (∃ r rest e, s.pending = .issue r :: rest ∧ decodeCmd r.cmd = .error e ∧
      step s = .next ((s.accept r rest).raise (.illegalCommand r.cmd))) :=
  stepBy_cases cfg exec s

/-- `exec` is the machine of the default configuration. -/
theorem exec_eq_execOf (i : Instr) (s : State) : exec i s = execOf cfg i s := by cases i <;> rfl

theorem edcCheckOf_isOperation (m : TrackMode) : (edcCheckOf m).isOperation = true := by cases m <;> rfl

theorem decodeXaOp_isOperation {op : BitVec 3} {i : Instr} (h : decodeXaOp op = some i) : i.isOperation = true := by
  unfold decodeXaOp at h
  split_ifs at h <;> cases h <;> rfl

/-- The command port decodes to operations only (R47). -/
theorem decodeCmd_isOperation {w : Byte} {i : Instr} (h : decodeCmd w = .ok i) : i.isOperation = true := by
  unfold decodeCmd at h
  dsimp only at h
  split at h
  · cases h
  · split at h
    · split at h
      · cases h; exact edcCheckOf_isOperation _
      · cases h
    · split at h
      · cases h
      · rename_i hi
        split at h
        · cases h; exact decodeXaOp_isOperation hi
        · cases h

end Sys2Proof.Machine
end

