-- ==== Sys2Proof/Tests/Slice0.lean ====
section
/-! SUPPORT. Tests: words written out from the spec's encodings, the spec's own vectors (95_test_vectors.md) on single
steps, ill-formed terms that WellFormed refuses, and a witness for the hypotheses of every statement that has some. -/

namespace Sys2Proof.Tests

open Sys2Proof Sys2Proof.Machine

/-! ### Helpers -/

/-- The next state, where there is one. -/
def nextOf (o : Host.Outcome State Fault Refusal) : Option State :=
  match o with
  | .next t => some t
  | .fault _ => none
  | .refused _ => none

/-- A field of the next state. -/
def after {α : Type} (f : State → α) (o : Host.Outcome State Fault Refusal) : Option α := (nextOf o).map f

/-- The reset state with a sector on the port and tags 1 and 150. -/
def onSector (m : Memory) : State := { State.reset with port := ⟨0, 1, 150, m⟩ }

/-- A channel with a history. -/
def history (old older : Int) : ChanState :=
  { State.reset.chL with old := BitVec.ofInt 16 old, older := BitVec.ofInt 16 older }

/-- The reset state with a history on channel `L`. -/
def withHistory (old older : Int) : State := { State.reset with chL := history old older }

/-- The reset state with samples queued and a mute flag. -/
def queued (l r : List Sample) (mute : Bool) : State :=
  { State.reset with chL := { State.reset.chL with q := l }, chR := { State.reset.chR with q := r }, mute := mute }

/-- The reset state with the host about to issue a command word. -/
def issuing (w : Byte) : State := { State.reset with pending := [.issue ⟨w, 0, 0, []⟩] }

/-! ### Ill-formed terms (WellFormed) -/

theorem test_wf_refuses_block_18 : WellFormed (.soundParam 18 0 0 0) = false := by decide

theorem test_wf_refuses_subblock_8 : WellFormed (.soundParamFilter2 0 8 0 0) = false := by decide

theorem test_wf_refuses_nibble_of_subblock_8 : WellFormed (.nibble 8 0 0 0) = false := by decide

theorem test_wf_accepts_last_subblock : WellFormed (.soundParam 17 7 0 0) = true := by decide

/-! ### Decoding, each word from the encoding of its row (30_encoding.md R46 to R49, R53, R54, R58, R59) -/

theorem test_decode_xaClear : decodeCmd 0b00000000 = .ok .xaClear := by decide

theorem test_decode_xaDecode : decodeCmd 0b00000001 = .ok .xaDecode := by decide

theorem test_decode_xaPop : decodeCmd 0b00000010 = .ok .xaPop := by decide

theorem test_decode_xaMute : decodeCmd 0b00000011 = .ok .xaMute := by decide

theorem test_decode_xaDemute : decodeCmd 0b00000100 = .ok .xaDemute := by decide

theorem test_decode_edcCheckMode1 : decodeCmd 0b00000101 = .ok .edcCheckMode1 := by decide

theorem test_decode_edcCheckMode2 : decodeCmd 0b00001101 = .ok .edcCheckMode2 := by decide

theorem test_decode_edcCheckAudio : decodeCmd 0b00010101 = .ok .edcCheckAudio := by decide

theorem test_decode_submode : decodeAt .submode 0b01100100 = .ok (.submode 0b01 .form2 0b00100) := by decide

theorem test_decode_codingInfo : decodeAt .codingInfo 0b10110110 = .ok (.codingInfo 1 0 3 1 2) := by decide

theorem test_decode_codingInfoMono37800 :
    decodeAt .codingInfoVariant 0b01000000 = .ok (.codingInfoMono37800 0b01) := by decide

theorem test_decode_codingInfoStereo37800 :
    decodeAt .codingInfoVariant 0b11000001 = .ok (.codingInfoStereo37800 0b11) := by decide

theorem test_decode_codingInfoMono18900 :
    decodeAt .codingInfoVariant 0b10000100 = .ok (.codingInfoMono18900 0b10) := by decide

theorem test_decode_codingInfoStereo18900 :
    decodeAt .codingInfoVariant 0b00000101 = .ok (.codingInfoStereo18900 0b00) := by decide

theorem test_decode_soundParam : decodeAt (.soundParam 1 0) 0x37 = .ok (.soundParam 1 0 3 7) := by decide

theorem test_decode_soundParamFilter0 :
    decodeAt (.soundParamVariant 1 1) 0x0A = .ok (.soundParamFilter0 1 1 0 10) := by decide

theorem test_decode_soundParamFilter1 :
    decodeAt (.soundParamVariant 1 2) 0xDC = .ok (.soundParamFilter1 1 2 3 12) := by decide

theorem test_decode_soundParamFilter2 :
    decodeAt (.soundParamVariant 1 3) 0x20 = .ok (.soundParamFilter2 1 3 0 0) := by decide

theorem test_decode_soundParamFilter3 :
    decodeAt (.soundParamVariant 1 4) 0x33 = .ok (.soundParamFilter3 1 4 0 3) := by decide

theorem test_decode_nibble : decodeAt (.nibble 1 0 10) 0x0A = .ok (.nibble 1 0 10 10) := by decide

/-- V-ILL-1: illegal words, one for each reason of R49. -/
theorem test_decode_illegal_words :
    decodeCmd 0x06 = .error .reservedOp ∧ decodeCmd 0x07 = .error .reservedOp ∧
    decodeCmd 0x08 = .error .modeNotZero ∧ decodeCmd 0x0A = .error .modeNotZero ∧
    decodeCmd 0x1D = .error .reservedMode ∧ decodeCmd 0x25 = .error .highBitsSet ∧
    decodeCmd 0xFF = .error .highBitsSet := by decide

/-- V-CI-1: coding-info bytes that are not supported. -/
theorem test_unsupported_coding_infos :
    ∀ x ∈ [0x02#8, 0x03, 0x08, 0x0C, 0x10, 0x11, 0x20, 0x30, 0x3F, 0xFF],
      codingModes x = none ∧ decodeAt .codingInfoVariant x = .error .unsupportedCoding := by decide

theorem test_table_word_runs_first :
    decodeTableWord 8 0x0D = some .edcCheckMode2 ∧ decodeTableWord 8 0x1D = none ∧
    after State.results (step (State.reset.withFetchWord 8 0x02)) = some [.pair 0 0] := by decide

/-! ### The control operations (95 §2.7) -/

/-- V-CTL-7: `XA.CLEAR` empties the queues and keeps `MUTE`. -/
theorem test_clear_empties_and_keeps_mute :
    after (fun t => (t.chL, t.mute, t.results)) (exec .xaClear (queued [1, 2] [3, 4] true)) =
      some (State.reset.chL, true, [.done]) := by decide

/-- V-CTL-2. -/
theorem test_pop_pair :
    after (fun t => (t.chL.q, t.chR.q, t.results)) (exec .xaPop (queued [5, 6] [-5, -6] false)) =
      some ([6], [-6], [.pair 5 (-5)]) := by decide

/-- V-CTL-3: muted, the pair is consumed. -/
theorem test_pop_muted :
    after (fun t => (t.chL.q, t.chR.q, t.results)) (exec .xaPop (queued [5, 6] [-5, -6] true)) =
      some ([6], [-6], [.pair 0 0]) := by decide

/-- V-CTL-4. -/
theorem test_mute : after (fun t => (t.mute, t.results)) (exec .xaMute State.reset) = some (true, [.done]) := by decide

/-- V-CTL-6, first operation. -/
theorem test_demute :
    after (fun t => (t.mute, t.chL.q)) (exec .xaDemute (queued [7] [8] true)) = some (false, [7]) := by decide

/-- 95 P4: the reserved word 0x06. -/
theorem test_step_illegal_word :
    after State.results (step (issuing 0x06)) = some [.error (.illegalCommand 0x06)] := by decide

/-- R145: reset clears the queues and the flag. -/
theorem test_step_reset :
    after (fun t => (t.chL.q, t.mute)) (step { queued [1] [2] true with pending := [.reset] }) = some ([], false) := by
  decide

/-! ### The checksum and its check (95 §2.1, §2.2) -/

/-- V-CRC-6: the check string "123456789". -/
theorem test_crc_check_string :
    edc cfg [0x31, 0x32, 0x33, 0x34, 0x35, 0x36, 0x37, 0x38, 0x39] = 0x6EC2EDC4 := by decide +kernel

/-- V-CRC-7: a leading zero byte changes nothing, a trailing one does. -/
theorem test_crc_zero_bytes : edc cfg [0x00, 0x01] = 0x90910101 ∧ edc cfg [0x01, 0x00] = 0x90019000 := by decide +kernel

/-- The example of R33. -/
theorem test_read32_little_endian :
    Memory.read32 [(0, 0x78), (1, 0x56), (2, 0x34), (3, 0x12)] 0 = 0x12345678 := by decide

/-- V-EDC-8: an all-zero sector passes as Mode1. -/
theorem test_edc_mode1_of_zeros : exec .edcCheckMode1 (onSector []) = .next ((onSector []).post .valid) := by
  have h : windowEdc cfg [] mode1Window = 0 := windowEdc_of_zeros fun _ _ _ => rfl
  simp only [mode1Window] at h
  show Host.Outcome.next (checkWindow cfg mode1Window (onSector [])) = _
  simp [checkWindow, onSector, h, mode1Window, Memory.read32]

/-- V-EDC-6, in small: a zero digest over a field of 1 mismatches, `expected` being the field. -/
theorem test_edc_mode1_mismatch :
    exec .edcCheckMode1 (onSector [(2064, 1)]) =
      .next ((onSector [(2064, 1)]).post (.error (.edcMismatch 1 150 1 0))) := by
  have h : windowEdc cfg [(2064, 1)] mode1Window = 0 :=
    windowEdc_of_zeros fun a _ h2 => by
      rw [Memory.read_cons, if_neg (by simp only [mode1Window] at h2; omega)]; rfl
  have hf : Memory.read32 [(2064, 1)] 2064 = 1 := by decide
  show Host.Outcome.next (checkWindow cfg mode1Window (onSector [(2064, 1)])) = _
  simp only [checkWindow, onSector, h]
  rfl

/-- V-EDC-9: an all-zero sector under Mode2 is Form1, and `Valid`, not `Skipped`. -/
theorem test_edc_mode2_of_zeros : exec .edcCheckMode2 (onSector []) = .next ((onSector []).post .valid) := by
  have h : windowEdc cfg [] (mode2Window .form1) = 0 := windowEdc_of_zeros fun _ _ _ => rfl
  show Host.Outcome.next (checkWindow cfg (mode2Window .form1) (onSector [])) = _
  simp [checkWindow, onSector, mode2Window, show windowEdc cfg [] ⟨16, 2072, 2072, false⟩ = 0 from h, Memory.read32]

/-- The example of R70: `S[18] = 0x64` and a zero field give `Skipped`. -/
theorem test_edc_form2_zero_field :
    after State.results (exec .edcCheckMode2 (onSector [(18, 0x64), (1000, 0x77)])) = some [.skipped] := by decide

theorem test_submode_form2_zero_field :
    after State.results (exec (.submode 1 .form2 4) (onSector [(1000, 0x77)])) = some [.skipped] := by decide

/-- V-EDC-21. -/
theorem test_edc_audio :
    after State.results (exec .edcCheckAudio (onSector [(0, 0xFF), (2351, 0xFF)])) = some [.skipped] := by decide

/-- A Form2 sector with a checksum: `S[18] = 0x20`, the four bytes that bring the checksum back to 0 after it, and a last
window byte of 1, whose checksum is `T[1] = 0x90910101` (R77). -/
def form2Sector : Memory :=
  [(18, 0x20), (19, 0x01), (20, 0x20), (21, 0x01), (22, 0x82), (2347, 0x01), (2348, 0x01), (2349, 0x01), (2350, 0x91),
    (2351, 0x90)]

theorem form2Sector_edc : windowEdc cfg form2Sector (mode2Window .form2) = 0x90910101 := by
  have hz : (form2Sector.readBytes 23 2324).foldl (crcByte cfg) 0 = 0 := by
    refine crc_of_zeros cfg fun x hx => ?_
    obtain ⟨b, h1, h2, rfl⟩ := Memory.mem_readBytes hx
    simp only [form2Sector, Memory.read_cons, Memory.read_nil]
    repeat rw [if_neg (by omega)]
  have ha : (form2Sector.readBytes 16 7).foldl (crcByte cfg) 0 = 0 := by decide +kernel
  have e : form2Sector.readBytes 16 2332 =
      form2Sector.readBytes 16 7 ++ (form2Sector.readBytes 23 2324 ++ form2Sector.readBytes 2347 1) := by
    rw [← Memory.readBytes_add, ← Memory.readBytes_add]
  show edc cfg (form2Sector.readBytes 16 2332) = _
  rw [e, edc, List.foldl_append, List.foldl_append, show cfg.edcInit = 0 from rfl, ha, hz]
  decide

theorem test_edc_form2_valid :
    exec .edcCheckMode2 (onSector form2Sector) = .next ((onSector form2Sector).post .valid) := by
  have hf : sectorForm cfg form2Sector = .form2 := by decide
  have hs : form2Sector.read32 2348 = 0x90910101 := by decide
  have h := form2Sector_edc
  simp only [mode2Window] at h
  show Host.Outcome.next (checkWindow cfg (mode2Window (sectorForm cfg form2Sector)) (onSector form2Sector)) = _
  simp [hf, checkWindow, onSector, mode2Window, hs, h]

/-! ### `XA.DECODE` and its items (95 §2.3 to §2.6) -/

/-- 95 P4: coding-info 0x11 is refused with an error. -/
theorem test_xaDecode_unsupported :
    after (fun t => (t.results, t.modeCh, t.chL.q)) (exec .xaDecode (onSector [(19, 0x11)])) =
      some ([.error (.xaUnsupportedCoding 0x11)], .mono, []) := by decide

/-- R86, for each supported combination. -/
theorem decodeSector_writes_modes (ch : ChMode) (rate : Rate) (s : State) :
    ∃ t, decodeSector cfg ch rate s = .next t ∧ t.modeCh = ch ∧ t.modeRate = rate := by
  have h := decodeBlocks_onlyChannels cfg (s.setModes ch rate)
  exact ⟨_, decodeSector_next (C := cfg) (by rfl) ch rate s, by simpa using h.modeCh, by simpa using h.modeRate⟩

/-- R86: coding-info 0xC5 is stereo at 18900 Hz, bits 7 and 6 ignored. -/
theorem test_xaDecode_writes_modes :
    ∃ t, exec .xaDecode (onSector [(19, 0xC5)]) = .next t ∧ t.modeCh = .stereo ∧ t.modeRate = .hz18900 := by
  have h : codingModes (Memory.read [(19, 0xC5)] 19) = some (.stereo, .hz18900) := by decide
  have e : exec .xaDecode (onSector [(19, 0xC5)]) = decodeSector cfg .stereo .hz18900 (onSector [(19, 0xC5)]) := by
    show decodeWithCoding cfg (Memory.read [(19, 0xC5)] 19) _ = _
    rw [decodeWithCoding, h]
  rw [e]
  exact decodeSector_writes_modes _ _ _

theorem test_codingInfo_unsupported :
    after State.results (exec (.codingInfo 0 0 1 0 1) (onSector [])) = some [.error (.xaUnsupportedCoding 0x11)] := by
  decide

theorem test_codingInfo_rows_write_modes :
    (∃ t, exec (.codingInfoMono37800 3) (onSector []) = .next t ∧ t.modeCh = .mono ∧ t.modeRate = .hz37800) ∧
    (∃ t, exec (.codingInfoStereo37800 0) (onSector []) = .next t ∧ t.modeCh = .stereo ∧ t.modeRate = .hz37800) ∧
    (∃ t, exec (.codingInfoMono18900 0) (onSector []) = .next t ∧ t.modeCh = .mono ∧ t.modeRate = .hz18900) ∧
    (∃ t, exec (.codingInfoStereo18900 1) (onSector []) = .next t ∧ t.modeCh = .stereo ∧ t.modeRate = .hz18900) := by
  refine ⟨?_, ?_, ?_, ?_⟩ <;> exact decodeSector_writes_modes _ _ _

/-- V-DEC-9: pair 2, a negative numerator rounded toward zero. -/
theorem test_nibble_truncates :
    after (fun t => (t.chL.old.toInt, t.chL.older.toInt)) (exec (.nibble 0 2 12 0) (withHistory (-1000) 500)) =
      some (-2202, -1000) := by decide

/-- V-DEC-13: the clamp at the top. -/
theorem test_nibble_clamps :
    after (fun t => t.chL.old.toInt) (exec (.nibble 0 2 0 7) (withHistory 32767 (-32768))) = some 32767 := by decide

/-- 28 data bytes of block 0 whose low nibbles are 1, from sector offset 40 on (R59). -/
def onesSector : Memory := (List.range 28).map fun j => (40 + 4 * j, 0x01#8)

/-- V-DEC-SEQ-1: sub-block 0, `sp = 0x18`, all nibbles 1. -/
theorem test_soundParam_sequence :
    after (fun t => (t.chL.old.toInt, t.chL.older.toInt)) (exec (.soundParam 0 0 1 8) (onSector onesSector)) =
      some (214, 211) := by decide +kernel

theorem test_soundParamFilter1_sequence :
    after (fun t => t.chL.old.toInt) (exec (.soundParamFilter1 0 0 0b10 8) (onSector onesSector)) = some 214 := by decide +kernel

/-- 28 data bytes of block 0 with the nibbles `(3 * j + 1) mod 16` in their high halves: sub-block 1 (R59). -/
def mixedSector : Memory :=
  ((List.range 28).map fun j => (40 + 4 * j, BitVec.ofNat 8 (16 * ((3 * j + 1) % 16)))).filter fun c => c.2 ≠ 0

/-- V-DEC-SEQ-2 on sub-block 1: `sp = 0x29`, signs mixed. -/
theorem test_soundParamFilter2_sequence :
    after (fun t => (t.chL.old.toInt, t.chL.older.toInt)) (exec (.soundParamFilter2 0 1 0 9) (onSector mixedSector)) =
      some (-158, -153) := by decide +kernel

/-- Pair 0 has no prediction: the last nibble is 1, shifted by 4. -/
theorem test_soundParamFilter0_no_prediction :
    after (fun t => t.chL.old.toInt) (exec (.soundParamFilter0 0 0 0 8) (onSector onesSector)) = some 16 := by decide +kernel

/-- Pair 3 on zero nibbles from zero history stays at zero. -/
theorem test_soundParamFilter3_silence :
    after (fun t => t.chL.old.toInt) (exec (.soundParamFilter3 17 7 0 0) (onSector [])) = some 0 := by decide +kernel

/-- V-RS-4: an impulse at the newest tap, the shift rounding down. -/
theorem test_push_impulse :
    ((pushAll cfg .L [0, 0, 0, 0, 0, 32767] { State.reset with modeCh := .stereo }).chL.q.map BitVec.toInt) =
      [0, 0, 0, 0, -1, 1, -5] := by decide +kernel

/-- V-RS-1: five pushes emit nothing. -/
theorem test_push_five :
    let t := pushAll cfg .L [5, 4, 3, 2, 1] { State.reset with modeCh := .stereo }
    t.chL.q = [] ∧ t.chL.p = 5 ∧ t.chL.sixstep = 1 ∧ t.chL.ring.take 5 = [5, 4, 3, 2, 1] := by decide +kernel

/-! ### Witnesses: states and operands that meet all hypotheses of a statement together -/

theorem witness_CommandWordsAreExactlyEight :
    (issuing 0x06).pending = .issue ⟨0x06, 0, 0, []⟩ :: [] ∧ decodeCmd 0x06 = .error .reservedOp := by decide

theorem witness_DecodeInvertsEncode : WellFormed (.soundParam 17 7 15 15) = true ∧ WellFormed (.nibble 7 0 0 0) = true := by
  decide

theorem witness_EncodeInvertsDecode :
    decodeAt .cmd 0x15 = .ok .edcCheckAudio ∧ decodeAt (.nibble 7 3 3) 0x0F = .ok (.nibble 7 3 3 15) := by decide

theorem witness_StepRunsDecodedOperation :
    (issuing 0x02).pending = .issue ⟨0x02, 0, 0, []⟩ :: [] ∧ decodeCmd 0x02 = .ok .xaPop := by decide

theorem witness_ResetEventInitialisesBlock :
    ({ State.reset with pending := [.reset, .reset] } : State).pending = .reset :: [.reset] := rfl

theorem witness_IdleStepKeepsState : State.reset.pending = [] := rfl

theorem witness_StoredChecksumIsLittleEndian :
    let m : Memory := [(2348, 0x78), (2349, 0x56), (2350, 0x34), (2351, 0x12)]
    m.read 2348 = 0x78 ∧ m.read 2349 = 0x56 ∧ m.read 2350 = 0x34 ∧ m.read 2351 = 0x12 := by decide

theorem witness_EdcCheckForm1Compares : ((onSector []).port.sector.read 18).getLsbD 5 = false := by decide

theorem witness_EdcCheckForm2ComparesOrSkips : ((onSector form2Sector).port.sector.read 18).getLsbD 5 = true := by decide

theorem witness_ChecksumThroughItsFieldIsZero :
    (checkedWindow cfg .mode1 [] = some mode1Window ∧
      exec (edcCheckOf .mode1) (onSector []) = .next ((onSector []).post .valid)) ∧
    (checkedWindow cfg .mode2 [] = some (mode2Window .form1) ∧
      exec (edcCheckOf .mode2) (onSector []) = .next ((onSector []).post .valid)) ∧
    (checkedWindow cfg .mode2 form2Sector = some (mode2Window .form2) ∧
      exec (edcCheckOf .mode2) (onSector form2Sector) = .next ((onSector form2Sector).post .valid)) :=
  ⟨⟨rfl, test_edc_mode1_of_zeros⟩, ⟨by decide, test_edc_mode2_of_zeros⟩, ⟨by decide, test_edc_form2_valid⟩⟩

theorem form2Sector_wf : form2Sector.wf := by decide

/-- The first and the last byte of each window. -/
theorem witness_WindowByteChangeGivesMismatch :
    (∀ a ∈ [0, 2063], mode1Window.lo ≤ a ∧ a < mode1Window.hi ∧ (1 : Byte) ≠ Memory.read [] a ∧
      checkedWindow cfg .mode1 (Memory.write [] a 1) = some mode1Window) ∧
    (∀ a ∈ [16, 18, 2071], (mode2Window .form1).lo ≤ a ∧ a < (mode2Window .form1).hi ∧ (1 : Byte) ≠ Memory.read [] a ∧
      checkedWindow cfg .mode2 (Memory.write [] a 1) = some (mode2Window .form1)) ∧
    (∀ a ∈ [16, 2347], (mode2Window .form2).lo ≤ a ∧ a < (mode2Window .form2).hi ∧ (2 : Byte) ≠ form2Sector.read a ∧
      checkedWindow cfg .mode2 (form2Sector.write a 2) = some (mode2Window .form2)) ∧
    (Memory.wf [] ∧ form2Sector.wf) ∧
    exec (edcCheckOf .mode1) (onSector []) = .next ((onSector []).post .valid) ∧
    exec (edcCheckOf .mode2) (onSector []) = .next ((onSector []).post .valid) ∧
    exec (edcCheckOf .mode2) (onSector form2Sector) = .next ((onSector form2Sector).post .valid) :=
  ⟨by decide, by decide, by decide, ⟨by decide, form2Sector_wf⟩, test_edc_mode1_of_zeros, test_edc_mode2_of_zeros,
    test_edc_form2_valid⟩

/-- The bytes next to the windows and fields, and the ends of the sector. -/
theorem witness_ByteOutsideWindowKeepsValid :
    (∀ a ∈ [2068, 2351], a < 2352 ∧ (a < mode1Window.lo ∨ mode1Window.hi ≤ a) ∧
      (a < mode1Window.field ∨ mode1Window.field + 4 ≤ a)) ∧
    (∀ a ∈ [0, 15, 2076, 2351], a < 2352 ∧ (a < (mode2Window .form1).lo ∨ (mode2Window .form1).hi ≤ a) ∧
      (a < (mode2Window .form1).field ∨ (mode2Window .form1).field + 4 ≤ a)) ∧
    (∀ a ∈ [0, 15], a < 2352 ∧ (a < (mode2Window .form2).lo ∨ (mode2Window .form2).hi ≤ a) ∧
      (a < (mode2Window .form2).field ∨ (mode2Window .form2).field + 4 ≤ a)) ∧
    (Memory.wf [] ∧ form2Sector.wf) ∧
    exec (edcCheckOf .mode1) (onSector []) = .next ((onSector []).post .valid) ∧
    exec (edcCheckOf .mode2) (onSector []) = .next ((onSector []).post .valid) ∧
    exec (edcCheckOf .mode2) (onSector form2Sector) = .next ((onSector form2Sector).post .valid) :=
  ⟨by decide, by decide, by decide, ⟨by decide, form2Sector_wf⟩, test_edc_mode1_of_zeros, test_edc_mode2_of_zeros,
    test_edc_form2_valid⟩

/-- The first and the last byte of each field. -/
theorem witness_ChecksumFieldByteChange :
    (∀ a ∈ [2064, 2067], mode1Window.field ≤ a ∧ a < mode1Window.field + 4 ∧ (1 : Byte) ≠ Memory.read [] a) ∧
    (∀ a ∈ [2072, 2075], (mode2Window .form1).field ≤ a ∧ a < (mode2Window .form1).field + 4 ∧
      (1 : Byte) ≠ Memory.read [] a) ∧
    (∀ a ∈ [2348, 2351], (mode2Window .form2).field ≤ a ∧ a < (mode2Window .form2).field + 4 ∧
      (0 : Byte) ≠ form2Sector.read a) ∧
    (Memory.wf [] ∧ form2Sector.wf) ∧
    exec (edcCheckOf .mode1) (onSector []) = .next ((onSector []).post .valid) ∧
    exec (edcCheckOf .mode2) (onSector []) = .next ((onSector []).post .valid) ∧
    exec (edcCheckOf .mode2) (onSector form2Sector) = .next ((onSector form2Sector).post .valid) :=
  ⟨by decide, by decide, by decide, ⟨by decide, form2Sector_wf⟩, test_edc_mode1_of_zeros, test_edc_mode2_of_zeros,
    test_edc_form2_valid⟩

/-- Two different states with the same ports. -/
theorem witness_EdcCheckIndependentOfUnitXa :
    (queued [1] [] true).port = State.reset.port ∧ queued [1] [] true ≠ State.reset := by decide

theorem witness_UnsupportedCodingRaisesError :
    (Memory.read [(19, 0x10)] 19).extractLsb' 4 2 ≠ 0 ∧ 2 ≤ ((Memory.read [(19, 0x02)] 19).extractLsb' 0 2).toNat ∧
    2 ≤ ((Memory.read [(19, 0x08)] 19).extractLsb' 2 2).toNat ∧ (1 : BitVec 2) ≠ 0 ∧ 2 ≤ (2 : BitVec 2).toNat ∧
    ((Memory.read [(19, 0xC5)] 19).extractLsb' 4 2 = 0 ∧ ((Memory.read [(19, 0xC5)] 19).extractLsb' 0 2).toNat < 2 ∧
      ((Memory.read [(19, 0xC5)] 19).extractLsb' 2 2).toNat < 2) ∧ (1 : BitVec 2).toNat < 2 := by decide

theorem witness_CodingInfoSteersXaDecode : decodeCodingInfoVariant 0x45 = .ok (.codingInfoStereo18900 1) := by decide

/-- Each supported combination, from reset. -/
theorem witness_XaDecodeAnswersItsOutputs :
    State.reset.chL.sixstep = 6 ∧ State.reset.chR.sixstep = 6 ∧
    codingModes ((onSector []).port.sector.read 19) = some (.mono, .hz37800) ∧
    codingModes ((onSector [(19, 0x41)]).port.sector.read 19) = some (.stereo, .hz37800) ∧
    codingModes ((onSector [(19, 0x84)]).port.sector.read 19) = some (.mono, .hz18900) ∧
    codingModes ((onSector [(19, 0xC5)]).port.sector.read 19) = some (.stereo, .hz18900) := by decide

theorem witness_CodingInfoRowsAnswerTheirOutputs : State.reset.chL.sixstep = 6 ∧ State.reset.chR.sixstep = 6 := by decide

theorem witness_XaDecodeIsTwoPasses :
    codingModes ((onSector [(19, 0x05)]).port.sector.read 19) = some (.stereo, .hz18900) := by decide

theorem witness_ChannelsShareNothing :
    codingModes ((onSector [(19, 0x04)]).port.sector.read 19) = some (.mono, .hz18900) ∧
    codingModes ((onSector [(19, 0x01)]).port.sector.read 19) = some (.stereo, .hz37800) := by decide

/-- An empty sector, and one that differs from it in bits 7 and 6 of the coding-info byte, the submode byte and a header
copy. -/
theorem witness_XaDecodeIgnoresAllOtherBytes :
    codingModes (Memory.read [] 19) = some (.mono, .hz37800) ∧
    (Memory.read [] 19).extractLsb' 0 6 = (Memory.read [(18, 0x64), (19, 0xC0), (24, 9)] 19).extractLsb' 0 6 ∧
    ∀ a, readByXaDecode a = true → a ≠ 19 → Memory.read [] a = Memory.read [(18, 0x64), (19, 0xC0), (24, 9)] a := by
  refine ⟨by decide, by decide, fun a h h19 => ?_⟩
  have h18 : a ≠ 18 := by rintro rfl; exact absurd h (by decide)
  have h24 : a ≠ 24 := by rintro rfl; exact absurd h (by decide)
  simp [Memory.read_cons, h19, h18, h24]

theorem witness_SoundParamDecodesItsSubBlock : 17 < 18 ∧ 7 < 8 := by decide

theorem witness_FilterRowsSelectTheirPairs : 0 < 18 ∧ 0 < 8 := by decide

theorem witness_SoundParamOutsideTheSectorFaults : ¬(18 < 18 ∧ 0 < 8) ∧ ¬(17 < 18 ∧ 8 < 8) := by decide

theorem witness_EffectiveShiftTable : (12 : Nibble).toNat ≤ 12 ∧ (0 : Nibble).toNat ≤ 12 := by decide

theorem witness_XaDecodeWalksItsItems :
    (17 < 18 ∧ 7 < 8) ∧ codingModes ((onSector [(19, 0x05)]).port.sector.read 19) = some (.stereo, .hz18900) := by decide

theorem witness_NibbleDecodesOneSample : State.reset.modeRate = .hz37800 := rfl

/-- A ring of the constant 32767, the cursor anywhere in it. -/
def constantRing : ChanState := { State.reset.chL with ring := List.replicate 32 32767, p := 31 }

theorem witness_InterpolatorOfConstants :
    (∀ v ∈ State.reset.chL.ring, v = 0) ∧ 6 < 7 ∧ ∀ i, i < 29 → tapSample cfg constantRing i = 32767 :=
  ⟨fun _ h => List.eq_of_mem_replicate (n := 32) h, by decide, by decide +kernel⟩

theorem witness_InterpolatorSumFits : 0 < 7 ∧ 6 < 7 := by decide

theorem witness_EverySixthPushEmitsSeven :
    (State.reset.chan .L).sixstep = 6 ∧ (State.reset.chan .L).p < 32 ∧ Chan.R ≠ Chan.L := by decide

theorem witness_PushInterpolatesWhenItEmits :
    let s : State := { State.reset with chR := { State.reset.chR with sixstep := 1, p := 31 } }
    ((s.chan .R).p < 32 ∧ (s.chan .R).ring.length = 32 ∧ (s.chan .R).sixstep = 1) ∧
    (s.chan .L).p < 32 ∧ (s.chan .L).ring.length = 32 ∧ 1 < (s.chan .L).sixstep := by decide

theorem witness_OutputsAreRoutedByMode :
    ({ State.reset with modeCh := .stereo } : State).modeCh = .stereo ∧ State.reset.modeCh = .mono := by decide

theorem witness_LowRateFeedsEverySampleTwice :
    ({ State.reset with modeRate := .hz18900 } : State).modeRate = .hz18900 ∧ State.reset.modeRate = .hz37800 := by decide

theorem witness_PopAnswersOnePair : State.reset.chL.q = [] ∧ State.reset.chR.q = [] := by decide

theorem witness_MuteGatesOnlyTheOutput :
    (queued [5, 6] [-5] true).mute = true ∧ (queued [5, 6] [-5] true).chL.q = 5 :: [6] ∧
    (queued [5, 6] [-5] true).chR.q = -5 :: [] := by decide

theorem witness_DrainAnswersPairsInOrder :
    (queued [5, 6] [-5, -6] false).mute = false ∧ 2 ≤ (queued [5, 6] [-5, -6] false).chL.q.length ∧
    2 ≤ (queued [5, 6] [-5, -6] false).chR.q.length := by decide

/-- A Form1 sector of zeros with a field of 1 mismatches; an empty one is valid; a Form2 one with a zero field skips. -/
theorem witness_SectorIsCheckedBeforeDecoding :
    (windowEdc cfg [(2072, 1)] (mode2Window (sectorForm cfg [(2072, 1)])) ≠ Memory.read32 [(2072, 1)] 2072 ∧
      ¬((mode2Window (sectorForm cfg [(2072, 1)])).skipZero = true ∧ Memory.read32 [(2072, 1)] 2072 = 0)) ∧
    windowEdc cfg [] (mode2Window (sectorForm cfg [])) = Memory.read32 [] 2072 ∧
    ((mode2Window (sectorForm cfg [(18, 0x20)])).skipZero = true ∧ Memory.read32 [(18, 0x20)] 2348 = 0) := by
  refine ⟨⟨?_, by decide⟩, ?_, by decide⟩
  · have h : windowEdc cfg [(2072, 1)] (mode2Window (sectorForm cfg [(2072, 1)])) = 0 :=
      windowEdc_of_zeros fun a _ h2 => by
        rw [show sectorForm cfg [(2072, 1)] = .form1 by decide] at h2
        rw [Memory.read_cons, if_neg (by simp only [mode2Window] at h2; omega)]; rfl
    rw [h]
    decide
  · exact windowEdc_of_zeros fun _ _ _ => rfl

theorem witness_ErrorsChangeNoState :
    (issuing 0x06).pending = .issue ⟨0x06, 0, 0, []⟩ :: [] ∧
    ∃ t, step (issuing 0x06) = .next t ∧ t.results = (issuing 0x06).results ++ [.error (.illegalCommand 0x06)] :=
  ⟨rfl, _, rfl, rfl⟩

theorem witness_EveryOperationEndsWithAResult : (issuing 0x02).pending = .issue ⟨0x02, 0, 0, []⟩ :: [] := rfl

/-- A state between operations other than reset, and its step. -/
theorem witness_StepKeepsInvariantsBetweenOperations :
    ({ queued [5] [6] true with pending := [.issue ⟨0x02, 0, 0, [(19, 1)]⟩] } : State).BetweenOps ∧
    ∃ t, step { queued [5] [6] true with pending := [.issue ⟨0x02, 0, 0, [(19, 1)]⟩] } = .next t :=
  ⟨⟨by decide, by decide, by decide, by decide, State.reset_sector_wf, by decide⟩, _, rfl⟩

theorem witness_EveryInstructionKeepsChannelsWf :
    State.reset.ChannelsWf ∧ ∃ t, exec (.nibble 0 1 12 3) State.reset = .next t :=
  ⟨⟨⟨by decide, by decide, by decide⟩, ⟨by decide, by decide, by decide⟩⟩, _, rfl⟩

theorem witness_OnlyTheirWritersChangeFlagAndModes :
    (∃ t, exec .xaPop State.reset = .next t) ∧ Instr.xaPop ≠ .xaMute ∧ Instr.xaPop ≠ .xaDemute ∧
    Instr.xaPop ≠ .xaDecode ∧ slotOf .xaPop ≠ .codingInfo ∧ slotOf .xaPop ≠ .codingInfoVariant :=
  ⟨⟨_, rfl⟩, by decide, by decide, by decide, by decide, by decide⟩

theorem witness_NoInstructionWritesTheSector :
    (∃ t, exec .edcCheckAudio State.reset = .next t) ∧ ∃ t, exec (.nibble 7 0 0 8) State.reset = .next t :=
  ⟨⟨_, rfl⟩, _, rfl⟩

theorem witness_OnlyXaOperationsChangeChannels :
    (∃ t, exec .xaPop State.reset = .next t) ∧ (∃ t, exec .edcCheckAudio State.reset = .next t) ∧
    slotOf (.submode 0 .form1 0) = .submode ∧ ∃ t, exec (.submode 0 .form1 0) State.reset = .next t :=
  ⟨⟨_, rfl⟩, ⟨_, rfl⟩, rfl, _, rfl⟩

theorem witness_OffsetsStayInsideTheSector :
    (17 < 18 ∧ 7 < 8 ∧ 27 < 28) ∧ checkedWindow cfg .mode2 form2Sector = some (mode2Window .form2) := by decide

theorem witness_ConfigurationIsAnArgument :
    (issuing 0x02).pending = .issue ⟨0x02, 0, 0, []⟩ :: [] ∧ decodeCmd 0x02 = .ok .xaPop := by decide

theorem witness_ResetFollowsTheConfiguration :
    ({ State.reset with pending := [.reset] } : State).pending = .reset :: [] := rfl

/-- One output below the capacity, at it, and above it. -/
theorem witness_FiniteQueueCapRefuses :
    codingModes ((onSector [(19, 0x01)]).port.sector.read 19) = some (.stereo, .hz37800) ∧
    (onSector [(19, 0x01)]).chL.sixstep = 6 ∧ (onSector [(19, 0x01)]).chR.sixstep = 6 ∧
    ((onSector [(19, 0x01)]).chL.q.length + outputsOf .stereo .hz37800 ≤ 2352 ∧
      (onSector [(19, 0x01)]).chR.q.length + outputsOf .stereo .hz37800 ≤ 2352) ∧
    ¬((onSector [(19, 0x01)]).chL.q.length + outputsOf .stereo .hz37800 ≤ 2351 ∧
      (onSector [(19, 0x01)]).chR.q.length + outputsOf .stereo .hz37800 ≤ 2351) := by decide

/-- V-DEC-9 under both division modes: the numerator is negative and no multiple of 64. -/
theorem test_nibble_floor :
    after (fun t => t.chL.old.toInt) (execOf { cfg with xaDivMode := .floor } (.nibble 0 2 12 0) (withHistory (-1000) 500)) =
      some (-2203) := by decide

/-- `MUTE_RESET` 1 (R20). -/
theorem test_reset_muted : (State.resetOf { cfg with muteReset := true }).mute = true := rfl

theorem test_wf_follows_the_configuration :
    WellFormedOf { cfg with xaBlocks := 19 } (.soundParam 18 0 0 0) = true := by decide

end Sys2Proof.Tests
end

section
/-! PROOFS. 10_state.md, R26: the reset values (`ResetValuesAndClear`). -/

namespace Sys2Proof.Machine

/-- The row of R26 for a channel, under the default configuration. -/
theorem ChanState.cleared_cfg : ChanState.cleared cfg = ⟨0, 0, List.replicate 32 0, 0, 6, []⟩ := rfl

@[simp] theorem clearPlayback_chL (C : Cfg) (s : State) : (clearPlayback C s).chL = ChanState.cleared C := rfl
@[simp] theorem clearPlayback_chR (C : Cfg) (s : State) : (clearPlayback C s).chR = ChanState.cleared C := rfl
@[simp] theorem clearPlayback_modeCh (C : Cfg) (s : State) : (clearPlayback C s).modeCh = s.modeCh := rfl
@[simp] theorem clearPlayback_modeRate (C : Cfg) (s : State) : (clearPlayback C s).modeRate = s.modeRate := rfl
@[simp] theorem clearPlayback_mute (C : Cfg) (s : State) : (clearPlayback C s).mute = s.mute := rfl
@[simp] theorem clearPlayback_port (C : Cfg) (s : State) : (clearPlayback C s).port = s.port := rfl
@[simp] theorem clearPlayback_pending (C : Cfg) (s : State) : (clearPlayback C s).pending = s.pending := rfl
@[simp] theorem clearPlayback_results (C : Cfg) (s : State) : (clearPlayback C s).results = s.results := rfl

@[simp] theorem State.reset_chL : State.reset.chL = ChanState.cleared cfg := rfl
@[simp] theorem State.reset_chR : State.reset.chR = ChanState.cleared cfg := rfl

theorem exec_xaClear (s : State) : exec .xaClear s = .next ((clearPlayback cfg s).post .done) := rfl

/-- Settles O7: the reset state is written out field by field, and `XA.CLEAR` puts both channels at the same record. -/
theorem resetValuesAndClear : Obligations.ResetValuesAndClear := by
  refine ⟨ChanState.cleared_cfg, ChanState.cleared_cfg, rfl, rfl, rfl, fun s => ⟨_, exec_xaClear s, ?_⟩⟩
  simp

end Sys2Proof.Machine
end

section
/-! PROOFS. 10_state.md, R28: the two channels share nothing (`ChannelsShareNothing`). Two facts are carried up from one
push to a whole sector. `OnlyDecodes`: decoding on one channel leaves the other's decoder as it was, and gives the other's
queue its own outputs in mono and nothing in stereo. `AgreeOn`: two states that agree on a channel still do after the same
decoding. -/

namespace Sys2Proof.Machine

/-! ### The channels under one push -/

@[simp] theorem ChanState.enqueue_nil (x : ChanState) : x.enqueue [] = x := by simp [ChanState.enqueue]

@[simp] theorem ChanState.enqueue_enqueue (x : ChanState) (ys zs : List Sample) :
    (x.enqueue ys).enqueue zs = x.enqueue (ys ++ zs) := by simp [ChanState.enqueue]

/-- In either mode the emitting channel gets its own outputs (R111). -/
theorem emit_chan_self (c : Chan) (ys : List Sample) (s : State) : (emit c ys s).chan c = (s.chan c).enqueue ys := by
  cases hm : s.modeCh with
  | mono => rw [emit_mono hm]; cases c <;> rfl
  | stereo => rw [emit_stereo hm, State.chan_setChan]

/-- The other channel gets the same outputs in mono and none in stereo (R111). -/
theorem emit_chan_of_ne {c d : Chan} (hd : d ≠ c) (ys : List Sample) (s : State) :
    (emit c ys s).chan d = if s.modeCh = .mono then (s.chan d).enqueue ys else s.chan d := by
  cases hm : s.modeCh with
  | mono => rw [emit_mono hm, if_pos rfl]; cases d <;> rfl
  | stereo => rw [emit_stereo hm, State.chan_setChan_of_ne _ _ hd, if_neg (by decide)]

/-- What a push makes of its channel is a function of that channel alone (R106). -/
theorem push_chan_self (C : Cfg) (c : Chan) (y : Sample) (s : State) :
    (push C c y s).chan c =
      if (s.chan c).sixstep ≤ 1 then
        ChanState.enqueue { (s.chan c).advance C y with sixstep := C.sixstepPeriod }
          (zigzagOutputs C ((s.chan c).advance C y))
      else (s.chan c).advance C y := by
  rcases push_cases C c y s with ⟨hc, e⟩ | ⟨hc, e⟩
  · rw [e, if_pos hc, emit_chan_self, State.chan_setChan]
  · rw [e, if_neg (by omega), State.chan_setChan]

/-! ### What decoding on one channel does to the other -/

/-- From `s` to `t` only channel `c` was decoded: the outputs `ys` that joined its queue joined the queue of `d` as well in
mono, and nothing else happened to `d` (R28, R111). -/
structure OnlyDecodes (c d : Chan) (s t : State) : Prop where
  modeCh : t.modeCh = s.modeCh
  outputs : ∃ ys, (t.chan c).q = (s.chan c).q ++ ys ∧
    t.chan d = if s.modeCh = .mono then (s.chan d).enqueue ys else s.chan d

theorem OnlyDecodes.refl (c d : Chan) (s : State) : OnlyDecodes c d s s := ⟨rfl, [], by simp⟩

theorem OnlyDecodes.trans {c d : Chan} {s t u : State} (h : OnlyDecodes c d s t) (k : OnlyDecodes c d t u) :
    OnlyDecodes c d s u := by
  obtain ⟨ys, hq, hd⟩ := h.outputs
  obtain ⟨zs, kq, kd⟩ := k.outputs
  rw [h.modeCh] at kd
  refine ⟨k.modeCh.trans h.modeCh, ys ++ zs, by rw [kq, hq, List.append_assoc], ?_⟩
  rw [kd, hd]
  split <;> simp

theorem OnlyDecodes.chan_of_stereo {c d : Chan} {s t : State} (h : OnlyDecodes c d s t) (hm : s.modeCh = .stereo) :
    t.chan d = s.chan d := by
  obtain ⟨ys, -, hd⟩ := h.outputs
  simpa [hm] using hd

/-- A write of channel `c` that keeps its queue. -/
theorem setChan_onlyDecodes {c d : Chan} (hd : d ≠ c) {s : State} {x : ChanState} (hq : x.q = (s.chan c).q) :
    OnlyDecodes c d s (s.setChan c x) :=
  ⟨State.setChan_modeCh s c x, [], by simp [hq], by simp [State.chan_setChan_of_ne s x hd]⟩

theorem emit_onlyDecodes {c d : Chan} (hd : d ≠ c) (ys : List Sample) (s : State) : OnlyDecodes c d s (emit c ys s) :=
  ⟨(emit_onlyChannels c ys s).modeCh, ys, by rw [emit_chan_self, ChanState.enqueue_q], emit_chan_of_ne hd ys s⟩

theorem push_onlyDecodes (C : Cfg) {c d : Chan} (hd : d ≠ c) (y : Sample) (s : State) :
    OnlyDecodes c d s (push C c y s) := by
  rcases push_cases C c y s with ⟨-, e⟩ | ⟨-, e⟩ <;> rw [e]
  · exact (setChan_onlyDecodes hd (by rfl)).trans (emit_onlyDecodes hd _ _)
  · exact setChan_onlyDecodes hd rfl

theorem feed_onlyDecodes (C : Cfg) {c d : Chan} (hd : d ≠ c) (y : Sample) (s : State) :
    OnlyDecodes c d s (feed C c y s) := by
  unfold feed
  split
  · exact push_onlyDecodes C hd y s
  · exact (push_onlyDecodes C hd y s).trans (push_onlyDecodes C hd y _)

theorem decodeSample_onlyDecodes (C : Cfg) {c d : Chan} (hd : d ≠ c) (filter raw n : Nibble) (s : State) :
    OnlyDecodes c d s (decodeSample C c filter raw n s) :=
  (setChan_onlyDecodes hd (by rfl)).trans (feed_onlyDecodes C hd _ _)

theorem decodeSamples_onlyDecodes (C : Cfg) {c d : Chan} (hd : d ≠ c) (blk b : Nat) (filter raw : Nibble) (s : State) :
    OnlyDecodes c d s (decodeSamples C c blk b filter raw s) :=
  foldl_keeps (OnlyDecodes.refl c d) (fun _ _ _ => OnlyDecodes.trans) _
    (fun s _ => decodeSample_onlyDecodes C hd filter raw _ s) _ s

/-! ### A mono sector decodes on `L` only -/

/-- In mono every sub-block belongs to `L` (R90). -/
@[simp] theorem chanOf_mono (b : Nat) : chanOf .mono b = .L := rfl

theorem decodeSubBlock_onlyDecodes (C : Cfg) (blk b : Nat) {s : State} (hm : s.modeCh = .mono) :
    OnlyDecodes .L .R s (decodeSubBlock C blk b s) := by
  unfold decodeSubBlock
  rw [hm, chanOf_mono]
  exact decodeSamples_onlyDecodes C (by decide) blk b _ _ s

/-- A loop whose every pass decodes on `L` only in mono does so as a whole. -/
theorem foldl_onlyDecodes {α : Type} {f : State → α → State}
    (h : ∀ s a, s.modeCh = .mono → OnlyDecodes .L .R s (f s a)) (l : List α) {s : State} (hm : s.modeCh = .mono) :
    OnlyDecodes .L .R s (l.foldl f s) := by
  refine foldl_keeps (R := fun s t => s.modeCh = .mono → OnlyDecodes .L .R s t) ?_ ?_ f h l s hm
  · exact fun s _ => OnlyDecodes.refl .L .R s
  · intro s t u hst htu hs
    exact (hst hs).trans (htu ((hst hs).modeCh.trans hs))

theorem decodeBlock_onlyDecodes (C : Cfg) (blk : Nat) {s : State} (hm : s.modeCh = .mono) :
    OnlyDecodes .L .R s (decodeBlock C blk s) :=
  foldl_onlyDecodes (fun _ b => decodeSubBlock_onlyDecodes C blk b) _ hm

theorem decodeBlocks_onlyDecodes (C : Cfg) {s : State} (hm : s.modeCh = .mono) :
    OnlyDecodes .L .R s (decodeBlocks C s) :=
  foldl_onlyDecodes (fun _ blk => decodeBlock_onlyDecodes C blk) _ hm

/-! ### What decoding on one channel reads -/

/-- Two states have the same operands, modes and channel `c`, a channel the mode uses (R28); the other channel is free. -/
structure AgreeOn (c : Chan) (s t : State) : Prop where
  used : s.modeCh = .stereo ∨ c = .L
  modeCh : s.modeCh = t.modeCh
  modeRate : s.modeRate = t.modeRate
  port : s.port = t.port
  chan : s.chan c = t.chan c

/-- Agreement outlives any two changes of the channels that leave channel `c` alike. -/
theorem AgreeOn.of_onlyChannels {c : Chan} {s t s' t' : State} (h : AgreeOn c s t) (hs : OnlyChannels s s')
    (ht : OnlyChannels t t') (hc : s'.chan c = t'.chan c) : AgreeOn c s' t' where
  used := by rw [hs.modeCh]; exact h.used
  modeCh := by rw [hs.modeCh, ht.modeCh, h.modeCh]
  modeRate := by rw [hs.modeRate, ht.modeRate, h.modeRate]
  port := by rw [hs.port, ht.port, h.port]
  chan := hc

theorem AgreeOn.setChan {c : Chan} {s t : State} (h : AgreeOn c s t) (x : ChanState) :
    AgreeOn c (s.setChan c x) (t.setChan c x) :=
  h.of_onlyChannels (setChan_onlyChannels s c x) (setChan_onlyChannels t c x) (by simp)

theorem AgreeOn.push {c : Chan} {s t : State} (h : AgreeOn c s t) (C : Cfg) (y : Sample) :
    AgreeOn c (push C c y s) (push C c y t) :=
  h.of_onlyChannels (push_onlyChannels C c y s) (push_onlyChannels C c y t) (by simp only [push_chan_self, h.chan])

theorem AgreeOn.feed {c : Chan} {s t : State} (h : AgreeOn c s t) (C : Cfg) (y : Sample) :
    AgreeOn c (feed C c y s) (feed C c y t) := by
  unfold Machine.feed
  rw [← h.modeRate]
  split
  · exact h.push C y
  · exact (h.push C y).push C y

theorem AgreeOn.decodeSample {c : Chan} {s t : State} (h : AgreeOn c s t) (C : Cfg) (filter raw n : Nibble) :
    AgreeOn c (decodeSample C c filter raw n s) (decodeSample C c filter raw n t) := by
  unfold Machine.decodeSample
  rw [← h.chan]
  exact (h.setChan _).feed C _

theorem AgreeOn.decodeSamples {c : Chan} {s t : State} (h : AgreeOn c s t) (C : Cfg) (blk b : Nat)
    (filter raw : Nibble) :
    AgreeOn c (decodeSamples C c blk b filter raw s) (decodeSamples C c blk b filter raw t) :=
  List.foldl_rel h fun j _ u v huv => by
    rw [← huv.port]
    exact huv.decodeSample C filter raw _

/-- A sub-block of channel `c` makes the same of it in both states; a sub-block of the other channel, which only a stereo
sector has, leaves it alone in both. -/
theorem AgreeOn.decodeSubBlock {c : Chan} {s t : State} (h : AgreeOn c s t) (C : Cfg) (blk b : Nat) :
    AgreeOn c (decodeSubBlock C blk b s) (decodeSubBlock C blk b t) := by
  unfold Machine.decodeSubBlock
  rw [← h.port, ← h.modeCh]
  by_cases hc : c = chanOf s.modeCh b
  · rw [← hc]
    exact h.decodeSamples C blk b _ _
  · have hs : s.modeCh = .stereo := by
      cases hm : s.modeCh with
      | stereo => rfl
      | mono =>
        have hL : c = .L := h.used.resolve_left (by simp [hm])
        exact absurd (by rw [hm, chanOf_mono, hL]) hc
    refine h.of_onlyChannels (decodeSamples_onlyChannels ..) (decodeSamples_onlyChannels ..) ?_
    rw [(decodeSamples_onlyDecodes C hc ..).chan_of_stereo hs,
      (decodeSamples_onlyDecodes C hc ..).chan_of_stereo (h.modeCh ▸ hs), h.chan]

theorem AgreeOn.decodeBlock {c : Chan} {s t : State} (h : AgreeOn c s t) (C : Cfg) (blk : Nat) :
    AgreeOn c (decodeBlock C blk s) (decodeBlock C blk t) :=
  List.foldl_rel h fun b _ _ _ huv => huv.decodeSubBlock C blk b

theorem AgreeOn.decodeBlocks {c : Chan} {s t : State} (h : AgreeOn c s t) (C : Cfg) :
    AgreeOn c (decodeBlocks C s) (decodeBlocks C t) :=
  List.foldl_rel h fun blk _ _ _ huv => huv.decodeBlock C blk

/-! ### The whole operation -/

/-- `XA.DECODE` of a supported sector under the default configuration (R85, R86, R100). -/
theorem exec_xaDecode_of_supported {s : State} {ch : ChMode} {rate : Rate}
    (h : codingModes (s.port.sector.read 19) = some (ch, rate)) :
    exec .xaDecode s = .next ((decodeBlocks cfg (s.setModes ch rate)).post
      (.decoded ((decodeBlocks cfg (s.setModes ch rate)).chL.q.length - s.chL.q.length))) := by
  have e : exec .xaDecode s = decodeSector cfg ch rate s := by
    change decodeWithCoding cfg (s.port.sector.read 19) s = _
    rw [decodeWithCoding, h]
  rw [e, decodeSector_next rfl]

theorem sameDecoder_enqueue (x : ChanState) (ys : List Sample) : SameDecoder x (x.enqueue ys) :=
  ⟨rfl, rfl, rfl, rfl, rfl⟩

/-- Settles O26: `decodeBlocks_onlyDecodes` for what a mono sector leaves of `R`, and `AgreeOn.decodeBlocks` for what
neither channel reads of the other. -/
theorem channelsShareNothing : Obligations.ChannelsShareNothing := by
  refine ⟨fun s x rate h => ?_, fun s x rate h => ?_⟩
  · obtain ⟨ys, hL, hR⟩ := (decodeBlocks_onlyDecodes cfg (s := s.setModes .mono rate) rfl).outputs
    have agree : AgreeOn .L (State.setModes { s with chR := x } .mono rate) (s.setModes .mono rate) :=
      ⟨.inr rfl, rfl, rfl, rfl, rfl⟩
    refine ⟨_, _, ys, exec_xaDecode_of_supported h, exec_xaDecode_of_supported h, ?_⟩
    simp only [State.setModes_modeCh, if_pos, State.chan_L, State.chan_R, State.setModes_chL, State.setModes_chR] at hL hR
    simp only [State.post_chL, State.post_chR, hR, hL, ChanState.enqueue_q, true_and]
    exact ⟨sameDecoder_enqueue s.chR ys, (agree.decodeBlocks cfg).chan⟩
  · have agreeL : AgreeOn .L (State.setModes { s with chR := x } .stereo rate) (s.setModes .stereo rate) :=
      ⟨.inl rfl, rfl, rfl, rfl, rfl⟩
    have agreeR : AgreeOn .R (State.setModes { s with chL := x } .stereo rate) (s.setModes .stereo rate) :=
      ⟨.inl rfl, rfl, rfl, rfl, rfl⟩
    refine ⟨_, _, _, exec_xaDecode_of_supported h, exec_xaDecode_of_supported h, exec_xaDecode_of_supported h, ?_⟩
    simp only [State.post_chL, State.post_chR]
    exact ⟨(agreeL.decodeBlocks cfg).chan, (agreeR.decodeBlocks cfg).chan⟩

end Sys2Proof.Machine
end

section
/-! PROOFS. 20_memory.md, R33: the stored checksum is read least significant byte first
(`StoredChecksumIsLittleEndian`). -/

namespace Sys2Proof.Machine

/-- Appending a byte below a word weights the word by 256. -/
theorem toNat_append_byte {n : Nat} (x : BitVec n) (y : Byte) : (x ++ y).toNat = 256 * x.toNat + y.toNat := by
  rw [BitVec.toNat_append, ← Nat.shiftLeft_add_eq_or_of_lt y.isLt, Nat.shiftLeft_eq, Nat.mul_comm]

theorem Memory.toNat_read32 (m : Memory) (a : Nat) : (m.read32 a).toNat =
    (m.read a).toNat + 256 * (m.read (a + 1)).toNat + 65536 * (m.read (a + 2)).toNat +
      16777216 * (m.read (a + 3)).toNat := by
  simp only [Memory.read32, toNat_append_byte]
  omega

/-- Settles O9: `read32` is three appends, each of which weights the bytes above it by 256. -/
theorem storedChecksumIsLittleEndian : Obligations.StoredChecksumIsLittleEndian := by
  refine ⟨Memory.toNat_read32, fun m a h0 h1 h2 h3 => BitVec.eq_of_toNat_eq ?_⟩
  rw [Memory.toNat_read32, h0, h1, h2, h3]
  rfl

end Sys2Proof.Machine
end

section
/-! PROOFS. 30_encoding.md, R49: the legal command words (`CommandWordsAreExactlyEight`). The decoder's branches are read
once, in `decodeCmd_cases`; both directions, what is accepted and what is rejected, follow from that. -/

namespace Sys2Proof.Machine

/-- The eight legal command words and their operations (R47, R48). -/
def legalCommands : List (Byte × Instr) :=
  [(0x00, .xaClear), (0x01, .xaDecode), (0x02, .xaPop), (0x03, .xaMute), (0x04, .xaDemute),
    (0x05, .edcCheckMode1), (0x0D, .edcCheckMode2), (0x15, .edcCheckAudio)]

theorem decodeCmd_of_mem_legalCommands : ∀ c ∈ legalCommands, decodeCmd c.1 = .ok c.2 := by decide

/-- A command word is put together from its fields `cmd[7:5]`, `mode` and `op` (R46). -/
theorem append_commandFields (w : Byte) : w.extractLsb' 5 3 ++ w.extractLsb' 3 2 ++ w.extractLsb' 0 3 = w := by
  rw [BitVec.extractLsb'_append_extractLsb'_eq_extractLsb' (show 5 = 3 + 2 from rfl),
    BitVec.extractLsb'_append_extractLsb'_eq_extractLsb' (show 3 = 0 + 3 from rfl), BitVec.extractLsb'_eq_self]

theorem decodeTrackMode_eq_none_iff {mode : BitVec 2} : decodeTrackMode mode = none ↔ mode = 3 := by
  decide +revert

theorem decodeXaOp_eq_none_iff {op : BitVec 3} : decodeXaOp op = none ↔ op = 5 ∨ op = 6 ∨ op = 7 := by
  decide +revert

theorem toNat_le_of_decodeXaOp {op : BitVec 3} {i : Instr} (h : decodeXaOp op = some i) : op.toNat ≤ 4 := by
  have hne : decodeXaOp op ≠ none := by simp [h]
  rw [ne_eq, decodeXaOp_eq_none_iff] at hne
  bv_omega

theorem edcCheck_mem_legalCommands (mode : BitVec 2) :
    ∀ m ∈ decodeTrackMode mode, ((0 : BitVec 3) ++ mode ++ (5 : BitVec 3), edcCheckOf m) ∈ legalCommands := by
  decide +revert

theorem xaOp_mem_legalCommands (op : BitVec 3) :
    ∀ i ∈ decodeXaOp op, ((0 : BitVec 3) ++ (0 : BitVec 2) ++ op, i) ∈ legalCommands := by
  decide +revert

/-- What the decoder makes of a command word: it is one of the eight, or it is rejected by one of the four conditions of
R49. -/
theorem decodeCmd_cases (w : Byte) :
    (∃ i, (w, i) ∈ legalCommands ∧ decodeCmd w = .ok i) ∨
    (w.extractLsb' 5 3 ≠ 0 ∧ decodeCmd w = .error .highBitsSet) ∨
    ((w.extractLsb' 0 3 = 6 ∨ w.extractLsb' 0 3 = 7) ∧ decodeCmd w = .error .reservedOp) ∨
    ((w.extractLsb' 0 3 = 5 ∧ w.extractLsb' 3 2 = 3) ∧ decodeCmd w = .error .reservedMode) ∨
    (((w.extractLsb' 0 3).toNat ≤ 4 ∧ w.extractLsb' 3 2 ≠ 0) ∧ decodeCmd w = .error .modeNotZero) := by
  have hw := append_commandFields w
  generalize hd : decodeCmd w = d
  unfold decodeCmd at hd
  dsimp only at hd
  generalize w.extractLsb' 5 3 = high, w.extractLsb' 3 2 = mode, w.extractLsb' 0 3 = op at hw hd ⊢
  subst hw
  split at hd
  · next hhigh => exact .inr (.inl ⟨hhigh, hd.symm⟩)
  · next hhigh =>
    obtain rfl := not_not.mp hhigh
    split at hd
    · next hop =>
      subst hop
      split at hd
      · next m hm => exact .inl ⟨edcCheckOf m, edcCheck_mem_legalCommands mode m hm, hd.symm⟩
      · next hm => exact .inr (.inr (.inr (.inl ⟨⟨rfl, decodeTrackMode_eq_none_iff.mp hm⟩, hd.symm⟩)))
    · next hop =>
      split at hd
      · next hnone => exact .inr (.inr (.inl ⟨(decodeXaOp_eq_none_iff.mp hnone).resolve_left hop, hd.symm⟩))
      · next i hi =>
        split at hd
        · next hmode =>
          subst hmode
          exact .inl ⟨i, xaOp_mem_legalCommands op i hi, hd.symm⟩
        · next hmode => exact .inr (.inr (.inr (.inr ⟨⟨toNat_le_of_decodeXaOp hi, hmode⟩, hd.symm⟩)))

theorem decodeCmd_ok_iff {w : Byte} {i : Instr} : decodeCmd w = .ok i ↔ (w, i) ∈ legalCommands := by
  refine ⟨fun h => ?_, decodeCmd_of_mem_legalCommands (w, i)⟩
  obtain ⟨j, hmem, hj⟩ | ⟨-, he⟩ | ⟨-, he⟩ | ⟨-, he⟩ | ⟨-, he⟩ := decodeCmd_cases w
  · cases h.symm.trans hj
    exact hmem
  all_goals cases h.symm.trans he

/-- The four conditions of R49. -/
def IllegalFields (w : Byte) : Prop :=
  w.extractLsb' 5 3 ≠ 0 ∨ w.extractLsb' 0 3 = 6 ∨ w.extractLsb' 0 3 = 7 ∨
    (w.extractLsb' 0 3 = 5 ∧ w.extractLsb' 3 2 = 3) ∨
    ((w.extractLsb' 0 3).toNat ≤ 4 ∧ w.extractLsb' 3 2 ≠ 0)

theorem not_illegalFields_of_mem_legalCommands : ∀ c ∈ legalCommands, ¬IllegalFields c.1 := by
  unfold IllegalFields
  decide

theorem decodeCmd_error_iff {w : Byte} : (∃ e, decodeCmd w = .error e) ↔ IllegalFields w := by
  obtain ⟨i, hmem, hi⟩ | ⟨h, he⟩ | ⟨h, he⟩ | ⟨h, he⟩ | ⟨h, he⟩ := decodeCmd_cases w
  · simp [hi, not_illegalFields_of_mem_legalCommands _ hmem]
  all_goals exact ⟨fun _ => by unfold IllegalFields; tauto, fun _ => ⟨_, he⟩⟩

theorem step_of_illegal {s : State} {r : Request} {rest : List HostEvent} {e : Reject}
    (hp : s.pending = .issue r :: rest) (hd : decodeCmd r.cmd = .error e) :
    step s = .next ((s.accept r rest).raise (.illegalCommand r.cmd)) := by
  obtain ⟨h, -⟩ | ⟨_, h, -⟩ | ⟨_, _, _, h, hok, -⟩ | ⟨_, _, _, h, -, hs⟩ := step_cases s
  all_goals cases hp.symm.trans h
  · cases hd.symm.trans hok
  · exact hs

/-- Settles O1: the two halves of `decodeCmd_cases`, and the illegal case of `step_cases`. -/
theorem commandWordsAreExactlyEight : Obligations.CommandWordsAreExactlyEight :=
  ⟨fun _ _ => decodeCmd_ok_iff, fun _ => decodeCmd_error_iff, fun _ _ _ _ => step_of_illegal⟩

end Sys2Proof.Machine
end

section
/-! PROOFS. 40_edc.md, R70 to R80: the result of each check (`EdcCheckMode1Compares`, `EdcCheckForm1Compares`,
`EdcCheckForm2ComparesOrSkips`, `EdcCheckAudioSkips`). What a check of one window answers is said once, as a function of
the ports, `checkResult`; every check posts it and does nothing else. -/

namespace Sys2Proof.Machine

/-! ### The result of a check -/

/-- The result of the check of one window, from the ports alone: the zero-field skip (R75), then the comparison (R79). -/
def checkResult (C : Cfg) (w : Window) (p : Request) : OpResult :=
  if w.skipZero = true ∧ p.sector.read32 w.field = 0 then .skipped
  else if windowEdc C p.sector w = p.sector.read32 w.field then .valid
  else .error (.edcMismatch p.track p.sectorNo (p.sector.read32 w.field) (windowEdc C p.sector w))

theorem checkWindow_eq_post (C : Cfg) (w : Window) (s : State) :
    checkWindow C w s = s.post (checkResult C w s.port) := by
  simp only [checkWindow, checkResult, Bool.and_eq_true, beq_iff_eq, State.raise, apply_ite s.post]

/-- In a window without the zero-field skip a zero field is compared like any other (R73, R74). -/
theorem checkResult_of_noSkip (C : Cfg) {w : Window} (h : w.skipZero = false) (p : Request) :
    checkResult C w p =
      if windowEdc C p.sector w = p.sector.read32 w.field then .valid
      else .error (.edcMismatch p.track p.sectorNo (p.sector.read32 w.field) (windowEdc C p.sector w)) := by
  simp [checkResult, h]

/-- In a window with the zero-field skip the field is looked at before the checksum (R75). -/
theorem checkResult_of_skipZero (C : Cfg) {w : Window} (h : w.skipZero = true) (p : Request) :
    checkResult C w p =
      if p.sector.read32 w.field = 0 then .skipped
      else if windowEdc C p.sector w = p.sector.read32 w.field then .valid
      else .error (.edcMismatch p.track p.sectorNo (p.sector.read32 w.field) (windowEdc C p.sector w)) := by
  simp [checkResult, h]

/-! ### The three checks -/

/-- Bit 5 of the submode byte is the form bit (R53). -/
theorem formOfBit_extractLsb' (x : Byte) :
    formOfBit (x.extractLsb' 5 1) = if x.getLsbD 5 then .form2 else .form1 := by
  decide +revert

theorem sectorForm_cfg (m : Memory) : sectorForm cfg m = if (m.read 18).getLsbD 5 then .form2 else .form1 :=
  formOfBit_extractLsb' (m.read 18)

theorem exec_edcCheckMode1 (s : State) :
    exec .edcCheckMode1 s = .next (s.post (checkResult cfg mode1Window s.port)) :=
  congrArg _ (checkWindow_eq_post cfg mode1Window s)

theorem exec_edcCheckMode2 (s : State) :
    exec .edcCheckMode2 s = .next (s.post (checkResult cfg (mode2Window (sectorForm cfg s.port.sector)) s.port)) :=
  congrArg _ (checkWindow_eq_post cfg _ s)

theorem exec_edcCheckAudio (s : State) : exec .edcCheckAudio s = .next (s.post .skipped) := rfl

theorem State.withSector_post (s : State) (m : Memory) (v : OpResult) :
    (s.withSector m).post v = (s.post v).withSector m := rfl

/-- Settles O10: the Mode1 window has no zero-field skip. -/
theorem edcCheckMode1Compares : Obligations.EdcCheckMode1Compares := by
  intro s
  rw [exec_edcCheckMode1, checkResult_of_noSkip cfg rfl]
  rfl

/-- Settles O11: a clear form bit selects the Form1 window, which has no zero-field skip. -/
theorem edcCheckForm1Compares : Obligations.EdcCheckForm1Compares := by
  intro s hbit
  have hform : sectorForm cfg s.port.sector = .form1 := by
    rw [sectorForm_cfg, if_neg (ne_true_of_eq_false hbit)]
  rw [exec_edcCheckMode2, hform, checkResult_of_noSkip cfg rfl]
  rfl

/-- Settles O12: a set form bit selects the Form2 window, which has the zero-field skip. -/
theorem edcCheckForm2ComparesOrSkips : Obligations.EdcCheckForm2ComparesOrSkips := by
  intro s hbit
  have hform : sectorForm cfg s.port.sector = .form2 := by rw [sectorForm_cfg, if_pos hbit]
  rw [exec_edcCheckMode2, hform, checkResult_of_skipZero cfg rfl]
  rfl

/-- Settles O13: the Audio check posts its result without looking at the sector, so the sector can be put on the port after
it as well as before. -/
theorem edcCheckAudioSkips : Obligations.EdcCheckAudioSkips := by
  intro s m
  rw [exec_edcCheckAudio, State.withSector_post]

end Sys2Proof.Machine
end

section
/-! PROOFS. 41_xa_decode.md, R92: the effective shift (`EffectiveShiftTable`). -/

namespace Sys2Proof.Machine

theorem xaEffShift_of_le {raw : Nibble} (h : raw.toNat ≤ 12) : cfg.xaEffShift raw = 12 - raw.toNat := if_pos h

/-- Settles O32: for a raw shift up to 12 the shift by 12 is the effective shift followed by the raw one, which the
division takes off again. -/
theorem effectiveShiftTable : Obligations.EffectiveShiftTable := by
  refine ⟨by decide, fun raw n h => ?_⟩
  have hpow : (2 : Int) ^ 12 = 2 ^ cfg.xaEffShift raw * 2 ^ raw.toNat := by
    rw [xaEffShift_of_le h, pow_sub_mul_pow 2 h]
  rw [hpow, ← mul_assoc, Int.mul_ediv_cancel _ (by positivity)]

end Sys2Proof.Machine
end

section
/-! PROOFS. 41_xa_decode.md, R98: the low rate feeds every sample twice (`LowRateFeedsEverySampleTwice`). -/

namespace Sys2Proof.Machine

theorem feed_of_hz37800 (C : Cfg) (c : Chan) (y : Sample) {s : State} (h : s.modeRate = .hz37800) :
    feed C c y s = push C c y s := by
  rw [feed, h]

theorem feed_of_hz18900 (C : Cfg) (c : Chan) (y : Sample) {s : State} (h : s.modeRate = .hz18900) :
    feed C c y s = push C c y (push C c y s) := by
  rw [feed, h]

/-- If feeding one sample at a rate is pushing some samples, so is feeding a list: feeding keeps the rate. -/
theorem feedAll_eq_pushAll_flatMap {C : Cfg} {c : Chan} {rate : Rate} {pushed : Sample → List Sample}
    (hfeed : ∀ y s, s.modeRate = rate → feed C c y s = pushAll C c (pushed y) s) (ys : List Sample) {s : State}
    (h : s.modeRate = rate) : feedAll C c ys s = pushAll C c (ys.flatMap pushed) s := by
  induction ys generalizing s with
  | nil => rfl
  | cons y ys ih =>
    calc feedAll C c (y :: ys) s
      _ = feedAll C c ys (feed C c y s) := rfl
      _ = pushAll C c (ys.flatMap pushed) (feed C c y s) := ih ((feed_onlyChannels C c y s).modeRate.trans h)
      _ = pushAll C c (ys.flatMap pushed) (pushAll C c (pushed y) s) := by rw [hfeed y s h]
      _ = pushAll C c ((y :: ys).flatMap pushed) s := by
        rw [List.flatMap_cons]
        exact List.foldl_append.symm

/-- Settles O39: `feedAll_eq_pushAll_flatMap`, with two pushes to a sample at the low rate and one at the high rate. -/
theorem lowRateFeedsEverySampleTwice : Obligations.LowRateFeedsEverySampleTwice := by
  intro s c ys
  refine ⟨fun h => ?_, fun h => ?_⟩
  · exact feedAll_eq_pushAll_flatMap (fun y _ hr => feed_of_hz18900 cfg c y hr) ys h
  · have once := feedAll_eq_pushAll_flatMap (pushed := fun y => [y]) (fun y _ hr => feed_of_hz37800 cfg c y hr) ys h
    rwa [List.flatMap_singleton'] at once

end Sys2Proof.Machine
end

section
/-! PROOFS. 41_xa_decode.md, R88 and R103: what `XA.DECODE` does not look at (`XaDecodeIgnoresAllOtherBytes`). Decoding one
sample does not look at the sector at all, so it commutes with putting another sector on the port. The loops over the
samples, sub-blocks and blocks commute with it where the two sectors hold the same items. -/

namespace Sys2Proof.Machine

/-! ### One sample does not look at the sector -/

@[simp] theorem State.withSector_chL (s : State) (m : Memory) : (s.withSector m).chL = s.chL := rfl
@[simp] theorem State.withSector_modeCh (s : State) (m : Memory) : (s.withSector m).modeCh = s.modeCh := rfl
@[simp] theorem State.withSector_sector (s : State) (m : Memory) : (s.withSector m).port.sector = m := rfl

@[simp] theorem State.chan_withSector (s : State) (m : Memory) (c : Chan) : (s.withSector m).chan c = s.chan c := by
  cases c <;> rfl

theorem State.setChan_withSector (s : State) (m : Memory) (c : Chan) (x : ChanState) :
    (s.withSector m).setChan c x = (s.setChan c x).withSector m := by
  cases c <;> rfl

theorem emit_withSector (c : Chan) (ys : List Sample) (s : State) (m : Memory) :
    emit c ys (s.withSector m) = (emit c ys s).withSector m := by
  cases hm : s.modeCh with
  | mono => rw [emit_mono hm, emit_mono (s := s.withSector m) hm]; rfl
  | stereo =>
    rw [emit_stereo hm, emit_stereo (s := s.withSector m) hm, State.chan_withSector, State.setChan_withSector]

theorem push_withSector (C : Cfg) (c : Chan) (y : Sample) (s : State) (m : Memory) :
    push C c y (s.withSector m) = (push C c y s).withSector m := by
  simp only [push, State.chan_withSector, State.setChan_withSector, emit_withSector]
  split <;> rfl

theorem feed_withSector (C : Cfg) (c : Chan) (y : Sample) (s : State) (m : Memory) :
    feed C c y (s.withSector m) = (feed C c y s).withSector m := by
  cases hr : s.modeRate with
  | hz37800 => rw [feed_of_hz37800 C c y hr, feed_of_hz37800 C c y (s := s.withSector m) hr, push_withSector]
  | hz18900 =>
    rw [feed_of_hz18900 C c y hr, feed_of_hz18900 C c y (s := s.withSector m) hr, push_withSector, push_withSector]

theorem decodeSample_withSector (C : Cfg) (c : Chan) (filter raw n : Nibble) (s : State) (m : Memory) :
    decodeSample C c filter raw n (s.withSector m) = (decodeSample C c filter raw n s).withSector m := by
  simp only [decodeSample, State.chan_withSector, State.setChan_withSector, feed_withSector]

/-! ### A sector is decoded from its items alone -/

/-- The two sectors hold the same sound-parameter bytes and the same nibbles (R57, R59). -/
structure SameItems (C : Cfg) (m m' : Memory) : Prop where
  soundParam : ∀ blk < C.xaBlocks, ∀ b < C.xaSubblocks, sectorSoundParam C m blk b = sectorSoundParam C m' blk b
  nibble : ∀ blk < C.xaBlocks, ∀ b < C.xaSubblocks, ∀ j < C.xaSamples,
    sectorNibble C m blk b j = sectorNibble C m' blk b j

/-- The first state has sector `m` on the port, and the second is the first with `m'` there instead. -/
structure SectorReplaced (m m' : Memory) (s t : State) : Prop where
  sector : s.port.sector = m
  eq_withSector : t = s.withSector m'

theorem SectorReplaced.decodeSample {m m' : Memory} {s t : State} (h : SectorReplaced m m' s t) (C : Cfg) (c : Chan)
    (filter raw n : Nibble) :
    SectorReplaced m m' (decodeSample C c filter raw n s) (decodeSample C c filter raw n t) where
  sector := by rw [(decodeSample_onlyChannels C c filter raw n s).port, h.sector]
  eq_withSector := by rw [h.eq_withSector, decodeSample_withSector]

theorem SectorReplaced.decodeSamples {m m' : Memory} {s t : State} (h : SectorReplaced m m' s t) {C : Cfg}
    (items : SameItems C m m') (c : Chan) {blk b : Nat} (hblk : blk < C.xaBlocks) (hb : b < C.xaSubblocks)
    (filter raw : Nibble) :
    SectorReplaced m m' (decodeSamples C c blk b filter raw s) (decodeSamples C c blk b filter raw t) :=
  List.foldl_rel h fun j hj u v huv => by
    have hn : sectorNibble C v.port.sector blk b j = sectorNibble C u.port.sector blk b j := by
      rw [huv.eq_withSector, State.withSector_sector, huv.sector,
        items.nibble blk hblk b hb j (List.mem_range.mp hj)]
    rw [hn]
    exact huv.decodeSample C c filter raw _

theorem SectorReplaced.decodeSubBlock {m m' : Memory} {s t : State} (h : SectorReplaced m m' s t) {C : Cfg}
    (items : SameItems C m m') {blk b : Nat} (hblk : blk < C.xaBlocks) (hb : b < C.xaSubblocks) :
    SectorReplaced m m' (decodeSubBlock C blk b s) (decodeSubBlock C blk b t) := by
  have hmode : t.modeCh = s.modeCh := by rw [h.eq_withSector, State.withSector_modeCh]
  have hsp : sectorSoundParam C t.port.sector blk b = sectorSoundParam C s.port.sector blk b := by
    rw [h.eq_withSector, State.withSector_sector, h.sector, items.soundParam blk hblk b hb]
  unfold Machine.decodeSubBlock
  rw [hmode, hsp]
  exact h.decodeSamples items _ hblk hb _ _

theorem SectorReplaced.decodeBlock {m m' : Memory} {s t : State} (h : SectorReplaced m m' s t) {C : Cfg}
    (items : SameItems C m m') {blk : Nat} (hblk : blk < C.xaBlocks) :
    SectorReplaced m m' (decodeBlock C blk s) (decodeBlock C blk t) :=
  List.foldl_rel h fun _ hb _ _ huv => huv.decodeSubBlock items hblk (List.mem_range.mp hb)

theorem SectorReplaced.decodeBlocks {m m' : Memory} {s t : State} (h : SectorReplaced m m' s t) {C : Cfg}
    (items : SameItems C m m') : SectorReplaced m m' (decodeBlocks C s) (decodeBlocks C t) :=
  List.foldl_rel h fun _ hblk _ _ huv => huv.decodeBlock items (List.mem_range.mp hblk)

/-! ### The items and the modes are where `XA.DECODE` reads -/

theorem soundParamOffset_cfg (blk b : Nat) : soundParamOffset cfg blk b = 24 + 128 * blk + 4 + b := rfl

theorem nibbleOffset_cfg (blk b j : Nat) : nibbleOffset cfg blk b j = 24 + 128 * blk + 16 + 4 * j + b / 2 := rfl

theorem readByXaDecode_iff {a : Nat} : readByXaDecode a = true ↔
    a = 19 ∨ (24 ≤ a ∧ a < 2328) ∧ (4 ≤ (a - 24) % 128 ∧ (a - 24) % 128 < 12 ∨ 16 ≤ (a - 24) % 128) := by
  simp [readByXaDecode]

theorem sameItems_of_read_eq {m m' : Memory}
    (h : ∀ a, readByXaDecode a = true → a ≠ 19 → m.read a = m'.read a) : SameItems cfg m m' where
  soundParam blk hblk b hb := by
    change blk < 18 at hblk
    change b < 8 at hb
    have ho := soundParamOffset_cfg blk b
    exact h _ (readByXaDecode_iff.mpr (by omega)) (by omega)
  nibble blk hblk b hb j hj := by
    change blk < 18 at hblk
    change b < 8 at hb
    change j < 28 at hj
    have ho := nibbleOffset_cfg blk b j
    exact congrArg (nibbleHalf b) (h _ (readByXaDecode_iff.mpr (by omega)) (by omega))

/-- The modes are selected by the low six bits of the coding-info byte (R54, R103). -/
theorem codingModes_eq_of_low {x y : Byte} (h : x.extractLsb' 0 6 = y.extractLsb' 0 6) :
    codingModes x = codingModes y := by
  have hfield (k : Nat) (hk : k + 2 ≤ 6) : x.extractLsb' k 2 = y.extractLsb' k 2 := by
    ext i hi
    have hbit := congrArg (fun z => z.getLsbD (k + i)) h
    simpa [show k + i < 6 by omega] using hbit
  simp only [codingModes, hfield 0 (by omega), hfield 2 (by omega), hfield 4 (by omega)]

/-- Settles O27: the modes agree by `codingModes_eq_of_low`, and the blocks by `SectorReplaced.decodeBlocks`. -/
theorem xaDecodeIgnoresAllOtherBytes : Obligations.XaDecodeIgnoresAllOtherBytes := by
  intro s m m' ch rate hm hlow hread
  have hm' : codingModes (m'.read 19) = some (ch, rate) := codingModes_eq_of_low hlow ▸ hm
  have start : SectorReplaced m m' ((s.withSector m).setModes ch rate) ((s.withSector m').setModes ch rate) := ⟨rfl, rfl⟩
  have blocks := (start.decodeBlocks (sameItems_of_read_eq hread)).eq_withSector
  refine ⟨_, exec_xaDecode_of_supported (s := s.withSector m) hm, ?_⟩
  rw [exec_xaDecode_of_supported (s := s.withSector m') hm', blocks, State.withSector_post]
  simp only [State.withSector_chL]

end Sys2Proof.Machine
end

section
/-! PROOFS. 42_xa_resample.md, R106 and R109 to R111: one push (`PushInterpolatesWhenItEmits`) and where its outputs go
(`OutputsAreRoutedByMode`). A push shifts the taps: tap 0 meets the new sample, and each later tap meets what the tap before
it met before the push. -/

namespace Sys2Proof.Machine

/-- Settles O38: `emit_stereo` and `emit_mono`, a channel at a time. -/
theorem outputsAreRoutedByMode : Obligations.OutputsAreRoutedByMode := by
  intro s ys
  exact ⟨fun h => ⟨emit_stereo h .L ys, emit_stereo h .R ys⟩, fun h => emit_mono h .L ys⟩

/-! ### The taps after a push -/

/-- The ring entry a tap meets, counted up from the cursor (R109). -/
theorem tapSample_cfg (x : ChanState) {i : Nat} (hi : i < 32) :
    tapSample cfg x i = x.ring.getD ((x.p + 31 - i) % 32) 0 := by
  have hindex : (((x.p : Int) - 1 - i) % (32 : Nat)).toNat = (x.p + 31 - i) % 32 := by omega
  exact congrArg (x.ring.getD · 0) hindex

/-- A push moves the cursor on by one, so tap `i` then meets the entry `i` places below the old cursor. -/
theorem tapSample_advance (x : ChanState) (y : Sample) {i : Nat} (hi : i < 32) :
    tapSample cfg (x.advance cfg y) i = (x.ring.set x.p y).getD ((x.p + 32 - i) % 32) 0 := by
  have hindex : ((x.p + 1) % 32 + 31 - i) % 32 = (x.p + 32 - i) % 32 := by omega
  rw [tapSample_cfg _ hi]
  exact congrArg ((x.ring.set x.p y).getD · 0) hindex

/-- The sample just pushed is the most recent tap (R106). -/
theorem tapSample_advance_zero {x : ChanState} (hp : x.p < 32) (hring : x.ring.length = 32) (y : Sample) :
    tapSample cfg (x.advance cfg y) 0 = y := by
  rw [tapSample_advance x y (by decide), show (x.p + 32 - 0) % 32 = x.p by omega]
  simp [hring, hp]

/-- Every later tap meets what the tap before it met before the push. -/
theorem tapSample_advance_succ {x : ChanState} (hp : x.p < 32) (y : Sample) {i : Nat} (hi : i < 31) :
    tapSample cfg (x.advance cfg y) (i + 1) = tapSample cfg x i := by
  have hne : x.p ≠ (x.p + 31 - i) % 32 := by omega
  rw [tapSample_advance x y (by omega), tapSample_cfg x (by omega),
    show x.p + 32 - (i + 1) = x.p + 31 - i by omega]
  simp only [List.getD_eq_getElem?_getD, List.getElem?_set_ne hne]

/-! ### The outputs of an emitting push -/

theorem zigzagSum_eq_sum (C : Cfg) (x : ChanState) (k : Nat) :
    zigzagSum C x k = ((List.range C.zigzagTaps).map fun i => (tapSample C x i).toInt * C.zigzag k i).sum := by
  rw [List.sum_eq_foldl, List.foldl_map, zigzagSum]

/-- The sum after a push: the new sample under tap 0, the 28 most recent before it under the other taps (R109). -/
theorem zigzagSum_advance {x : ChanState} (hp : x.p < 32) (hring : x.ring.length = 32) (y : Sample) (k : Nat) :
    zigzagSum cfg (x.advance cfg y) k = y.toInt * cfg.zigzag k 0 +
      ((List.range 28).map fun i => (x.ring.getD ((x.p + 31 - i) % 32) 0).toInt * cfg.zigzag k (i + 1)).sum := by
  rw [zigzagSum_eq_sum, show cfg.zigzagTaps = 28 + 1 from rfl, List.range_succ_eq_map, List.map_cons, List.sum_cons,
    tapSample_advance_zero hp hring, List.map_map]
  congr 2
  refine List.map_congr_left fun i hi => ?_
  have hi28 : i < 28 := List.mem_range.mp hi
  rw [Function.comp_apply, tapSample_advance_succ hp y (by omega), tapSample_cfg x (by omega)]

theorem zigzagOutputs_getD (C : Cfg) (x : ChanState) {k : Nat} (hk : k < C.zigzagPhases) :
    (zigzagOutputs C x).getD k 0 = zigzagOutput C x k := by
  simp [zigzagOutputs, hk]

/-- Settles O37: the two cases of `push_cases`, the outputs of the emitting one by `zigzagSum_advance`. -/
theorem pushInterpolatesWhenItEmits : Obligations.PushInterpolatesWhenItEmits := by
  intro s c y hp hring x
  rcases push_cases cfg c y s with ⟨hle, hpush⟩ | ⟨hlt, hpush⟩
  · refine ⟨fun h => by omega, fun _ => ⟨zigzagOutputs cfg ((s.chan c).advance cfg y), zigzagOutputs_length cfg _, hpush,
      fun k hk => ?_⟩⟩
    rw [zigzagOutputs_getD cfg _ hk, zigzagOutput, toSample_toInt, zigzagSum_advance hp hring]
  · exact ⟨fun _ => hpush, fun h => by omega⟩

end Sys2Proof.Machine
end

section
/-! PROOFS. 43_xa_control.md: what `XA.CLEAR`, `XA.POP`, `XA.MUTE` and `XA.DEMUTE` do (`ClearReinitialisesPlayback`,
`PopAnswersOnePair`, `MuteAndDemuteWriteTheFlag`), and that `MUTE` gates the pop and nothing else
(`MuteGatesOnlyTheOutput`). Its two ideas: a pop is one formula whatever the queues hold, the empty queues of R122
included; and no channel's decoding reads `MUTE`, so decoding commutes with writing it. -/

namespace Sys2Proof.Machine

/-! ### The four operations -/

theorem exec_xaPop (s : State) : exec .xaPop s = .next (popPair s) := rfl

theorem exec_xaMute (s : State) : exec .xaMute s = .next ((s.setMute true).post .done) := rfl

theorem exec_xaDemute (s : State) : exec .xaDemute s = .next ((s.setMute false).post .done) := rfl

/-- Settles O40: both channels are written with the record of `ChanState.cleared_cfg`. -/
theorem clearReinitialisesPlayback : Obligations.ClearReinitialisesPlayback := by
  intro s
  rw [exec_xaClear, clearPlayback, ChanState.cleared_cfg]
  rfl

/-- Settles O42: each operation is one write of the flag. -/
theorem muteAndDemuteWriteTheFlag : Obligations.MuteAndDemuteWriteTheFlag :=
  fun s => ⟨exec_xaMute s, exec_xaDemute s⟩

/-! ### The pop -/

theorem ChanState.dequeue_of_nil {x : ChanState} (h : x.q = []) : x.dequeue = x := by
  rw [ChanState.dequeue, h, List.tail_nil, ← h]

theorem ChanState.head_of_nil {x : ChanState} (h : x.q = []) : x.head = 0 := by
  rw [ChanState.head, h, List.headD_nil]

/-- Silence is answered as silence whatever `MUTE` is (R122, R123). -/
theorem mutePair_zero_zero (mute : Bool) : mutePair mute 0 0 = .pair 0 0 := ite_self _

/-- The empty queues of R122 need no case of their own: taking the head of an empty queue changes nothing and gives 0. -/
theorem popPair_eq (s : State) :
    popPair s = State.post { s with chL := s.chL.dequeue, chR := s.chR.dequeue }
      (mutePair s.mute s.chL.head s.chR.head) := by
  obtain ⟨hL, hR, hpop⟩ | ⟨-, hpop⟩ := popPair_cases s
  · rw [hpop, ChanState.dequeue_of_nil hL, ChanState.dequeue_of_nil hR, ChanState.head_of_nil hL,
      ChanState.head_of_nil hR, mutePair_zero_zero]
  · exact hpop

theorem popPair_of_empty {s : State} (hL : s.chL.q = []) (hR : s.chR.q = []) : popPair s = s.post (.pair 0 0) :=
  if_pos ⟨hL, hR⟩

/-- Settles O41: `popPair_eq` for every state, `popPair_of_empty` for empty queues. -/
theorem popAnswersOnePair : Obligations.PopAnswersOnePair :=
  ⟨fun s => congrArg Host.Outcome.next (popPair_eq s),
    fun _ hL hR => congrArg Host.Outcome.next (popPair_of_empty hL hR)⟩

/-! ### Decoding commutes with writing `MUTE` -/

theorem State.setMute_post (s : State) (v : Bool) (r : OpResult) : (s.setMute v).post r = (s.post r).setMute v := rfl

theorem OnlyChannels.eq_with {s t : State} (h : OnlyChannels s t) : t = { s with chL := t.chL, chR := t.chR } := by
  obtain ⟨hch, hrate, hmute, hport, hpending, hresults⟩ := h
  rw [← hch, ← hrate, ← hmute, ← hport, ← hpending, ← hresults]

/-- In mono `R` gains exactly the samples that joined the queue of `L` (R111). -/
theorem decodeBlocks_chR_of_mono (C : Cfg) {s : State} (hm : s.modeCh = .mono) :
    (decodeBlocks C s).chR = s.chR.enqueue ((decodeBlocks C s).chL.q.drop s.chL.q.length) := by
  obtain ⟨ys, hL, hR⟩ := (decodeBlocks_onlyDecodes C hm).outputs
  rw [if_pos hm] at hR
  simp only [State.chan_L, State.chan_R] at hL hR
  rw [hL, List.drop_left, hR]

theorem decodeBlocks_setMute (C : Cfg) (s : State) (v : Bool) :
    decodeBlocks C (s.setMute v) = (decodeBlocks C s).setMute v := by
  have agree (c : Chan) (used : s.modeCh = .stereo ∨ c = .L) : AgreeOn c (s.setMute v) s :=
    ⟨used, rfl, rfl, rfl, by cases c <;> rfl⟩
  have hL : (decodeBlocks C (s.setMute v)).chL = (decodeBlocks C s).chL := ((agree .L (.inr rfl)).decodeBlocks C).chan
  have hR : (decodeBlocks C (s.setMute v)).chR = (decodeBlocks C s).chR := by
    cases hm : s.modeCh with
    | stereo => exact ((agree .R (.inl hm)).decodeBlocks C).chan
    | mono =>
      rw [decodeBlocks_chR_of_mono C (s := s.setMute v) hm, decodeBlocks_chR_of_mono C hm, hL, State.setMute_chL,
        State.setMute_chR]
  rw [(decodeBlocks_onlyChannels C (s.setMute v)).eq_with, hL, hR, (decodeBlocks_onlyChannels C s).eq_with]
  rfl

/-- `XA.DECODE` of an unsupported sector under the default configuration (R87). -/
theorem exec_xaDecode_of_unsupported {s : State} (h : codingModes (s.port.sector.read 19) = none) :
    exec .xaDecode s = .next (s.raise (.xaUnsupportedCoding (s.port.sector.read 19))) := by
  change decodeWithCoding cfg (s.port.sector.read 19) s = _
  rw [decodeWithCoding, h]

theorem exec_xaDecode_setMute (s : State) (v : Bool) :
    ∃ t, exec .xaDecode s = .next t ∧ exec .xaDecode (s.setMute v) = .next (t.setMute v) := by
  rcases h : codingModes (s.port.sector.read 19) with _ | ⟨ch, rate⟩
  · exact ⟨_, exec_xaDecode_of_unsupported h, exec_xaDecode_of_unsupported (s := s.setMute v) h⟩
  · refine ⟨_, exec_xaDecode_of_supported h, ?_⟩
    have hblocks : decodeBlocks cfg ((s.setMute v).setModes ch rate) =
        (decodeBlocks cfg (s.setModes ch rate)).setMute v := decodeBlocks_setMute cfg (s.setModes ch rate) v
    rw [exec_xaDecode_of_supported (s := s.setMute v) h, hblocks, State.setMute_post, State.setMute_chL,
      State.setMute_chL]

/-- Settles O43: `popPair_eq` with the flag set, `exec_xaDecode_setMute`, and the one write of `XA.MUTE`. -/
theorem muteGatesOnlyTheOutput : Obligations.MuteGatesOnlyTheOutput := by
  refine ⟨fun s l r ql qr hmute hL hR => ?_, exec_xaDecode_setMute, fun s => ⟨_, exec_xaMute s, rfl, rfl⟩⟩
  rw [exec_xaPop, popPair_eq, mutePair, if_pos hmute, ChanState.dequeue, ChanState.dequeue, hL, hR]
  rfl

end Sys2Proof.Machine
end

section
/-! PROOFS. 60_exceptions.md, R131: an error changes no state (`ErrorsChangeNoState`). Every operation ends by posting one
result, and where that result is an error it is posted on the state the operation was accepted in. -/

namespace Sys2Proof.Machine

theorem mutePair_ne_error (mute : Bool) (l r : Sample) (e : OpError) : mutePair mute l r ≠ .error e := by
  cases mute <;> nofun

/-- How an operation ends (R67, R131): one result `v` is posted on a state `u`, and for an error `u` is the state before. -/
theorem exec_operation_posts {i : Instr} (h : i.isOperation = true) (s : State) :
    ∃ u v, exec i s = .next (u.post v) ∧ u.pending = s.pending ∧ u.results = s.results ∧
      ∀ e, v = .error e → u = s := by
  cases i with
  | xaClear => exact ⟨_, _, exec_xaClear s, rfl, rfl, nofun⟩
  | xaDecode =>
    rcases hm : codingModes (s.port.sector.read 19) with _ | ⟨ch, rate⟩
    · exact ⟨s, _, exec_xaDecode_of_unsupported hm, rfl, rfl, fun _ _ => rfl⟩
    · have frame := decodeBlocks_onlyChannels cfg (s.setModes ch rate)
      exact ⟨_, _, exec_xaDecode_of_supported hm, frame.pending, frame.results, nofun⟩
  | xaPop =>
    exact ⟨_, _, congrArg _ (popPair_eq s), rfl, rfl, fun e he => absurd he (mutePair_ne_error _ _ _ e)⟩
  | xaMute => exact ⟨_, _, exec_xaMute s, rfl, rfl, nofun⟩
  | xaDemute => exact ⟨_, _, exec_xaDemute s, rfl, rfl, nofun⟩
  | edcCheckMode1 => exact ⟨s, _, exec_edcCheckMode1 s, rfl, rfl, fun _ _ => rfl⟩
  | edcCheckMode2 => exact ⟨s, _, exec_edcCheckMode2 s, rfl, rfl, fun _ _ => rfl⟩
  | edcCheckAudio => exact ⟨s, _, exec_edcCheckAudio s, rfl, rfl, fun _ _ => rfl⟩
  | _ => cases h

/-- How the step of an issued operation ends, an illegal command word included (R49). -/
theorem step_issue_posts {s : State} {r : Request} {rest : List HostEvent} (hp : s.pending = .issue r :: rest) :
    ∃ u v, step s = .next (u.post v) ∧ u.pending = rest ∧ u.results = s.results ∧
      ∀ e, v = .error e → u = s.accept r rest := by
  obtain ⟨h, -⟩ | ⟨_, h, -⟩ | ⟨_, _, i, h, hd, hs⟩ | ⟨_, _, _, h, -, hs⟩ := step_cases s
  all_goals cases hp.symm.trans h
  · rw [hs]
    exact exec_operation_posts (decodeCmd_isOperation hd) (s.accept r rest)
  · exact ⟨s.accept r rest, _, hs, rfl, rfl, fun _ _ => rfl⟩

/-- Accepting an operation writes the ports and the host's list only (R10, R11). -/
theorem sameBlock_accept_post (s : State) (r : Request) (rest : List HostEvent) (v : OpResult) :
    SameBlock s ((s.accept r rest).post v) :=
  ⟨rfl, rfl, rfl, rfl, rfl⟩

/-- Settles O46: by `step_issue_posts` the one result that was posted is the error, so it was posted on the state as
accepted. -/
theorem errorsChangeNoState : Obligations.ErrorsChangeNoState := by
  intro s t r rest e hp hs hres
  obtain ⟨u, v, hstep, -, hresults, herror⟩ := step_issue_posts hp
  cases hs.symm.trans hstep
  rw [State.post_results, hresults, List.append_cancel_left_eq, List.singleton_inj] at hres
  rw [herror e hres]
  exact sameBlock_accept_post s r rest v

end Sys2Proof.Machine
end

section
/-! PROOFS. 70_reset_and_hazards.md, R145: the reset event (`ResetEventInitialisesBlock`). -/

namespace Sys2Proof.Machine

/-- The step of a reset event, from any state: the reset state, with the rest of the host's list and the results answered
so far (R145). -/
theorem step_of_pending_reset {s : State} {rest : List HostEvent} (hp : s.pending = .reset :: rest) :
    step s = .next { State.reset with pending := rest, results := s.results } := by
  obtain ⟨h, -⟩ | ⟨_, h, hs⟩ | ⟨_, _, _, h, -⟩ | ⟨_, _, _, h, -⟩ := step_cases s
  all_goals cases hp.symm.trans h
  exact hs

/-- Settles O6: the step leads to the reset state, whose channels, modes and flag are the values of R26. -/
theorem resetEventInitialisesBlock : Obligations.ResetEventInitialisesBlock := by
  obtain ⟨hL, hR, hCh, hRate, hMute, -⟩ := resetValuesAndClear
  exact fun _ _ hp => ⟨_, step_of_pending_reset hp, hL, hR, hCh, hRate, hMute⟩

end Sys2Proof.Machine
end

section
/-! PROOFS. 30_encoding.md: decoding and encoding are inverse (`DecodeInvertsEncode`, `EncodeInvertsDecode`), and the words
of the spec (`WordsFromTheSpecDecode`). An encoding is its fields side by side: one direction reads the fields of an append
back, the other puts the fields of a byte together again. -/

namespace Sys2Proof.Machine

/-! ### The fields of an append -/

section
variable {u v w : Nat} (a : BitVec u) (b : BitVec v) (c : BitVec w)

theorem extractLsb'_append_low : (a ++ b ++ c).extractLsb' 0 w = c := BitVec.extractLsb'_append_eq_right

theorem extractLsb'_append_middle : (a ++ b ++ c).extractLsb' w v = b := by
  rw [BitVec.extractLsb'_append_eq_of_le le_rfl, Nat.sub_self, BitVec.extractLsb'_append_eq_right]

theorem extractLsb'_append_above (k n : Nat) : (a ++ b ++ c).extractLsb' (w + v + k) n = a.extractLsb' k n := by
  rw [BitVec.extractLsb'_append_eq_of_le (by omega), BitVec.extractLsb'_append_eq_of_le (by omega),
    show w + v + k - w - v = k by omega]

theorem extractLsb'_append_high : (a ++ b ++ c).extractLsb' (w + v) u = a :=
  (extractLsb'_append_above a b c 0 u).trans BitVec.extractLsb'_eq_self

end

/-! ### Decoding an encoding -/

theorem decodeSubmode_encode (hi : BitVec 2) (form : Form) (lo : BitVec 5) :
    decodeSubmode (encode (.submode hi form lo)) = .submode hi form lo := by
  have hform : formOfBit (bitOfForm form) = form := by cases form <;> rfl
  rw [decodeSubmode, encode, extractLsb'_append_low hi (bitOfForm form) lo,
    extractLsb'_append_middle hi (bitOfForm form) lo, extractLsb'_append_high hi (bitOfForm form) lo, hform]

theorem decodeCodingInfo_codingInfoByte (x e : BitVec 1) (bb rr cc : BitVec 2) :
    decodeCodingInfo (codingInfoByte x e bb rr cc) = .codingInfo x e bb rr cc := by
  rw [decodeCodingInfo, codingInfoByte, extractLsb'_append_low (x ++ e ++ bb) rr cc,
    extractLsb'_append_middle (x ++ e ++ bb) rr cc, extractLsb'_append_above (x ++ e ++ bb) rr cc 0 2,
    extractLsb'_append_above (x ++ e ++ bb) rr cc 2 1, extractLsb'_append_above (x ++ e ++ bb) rr cc 3 1,
    extractLsb'_append_low x e bb, extractLsb'_append_middle x e bb, extractLsb'_append_high x e bb]

/-- A supported row is read from its low six bits, whatever bits 7 and 6 are (R54). -/
theorem decodeCodingInfoVariant_append (xe : BitVec 2) (low : BitVec 6) :
    decodeCodingInfoVariant (xe ++ low) =
      if low = 0x00 then .ok (.codingInfoMono37800 xe)
      else if low = 0x01 then .ok (.codingInfoStereo37800 xe)
      else if low = 0x04 then .ok (.codingInfoMono18900 xe)
      else if low = 0x05 then .ok (.codingInfoStereo18900 xe)
      else .error .unsupportedCoding := by
  have hxe : (xe ++ low).extractLsb' 6 2 = xe := BitVec.extractLsb'_append_eq_left
  have hlow : (xe ++ low).extractLsb' 0 6 = low := BitVec.extractLsb'_append_eq_right
  rw [decodeCodingInfoVariant, hxe, hlow]

section
variable {C : Cfg} {blk b : Nat}

theorem decodeSoundParam_append (h : subBlockExists C blk b = true) (filter raw : Nibble) :
    decodeSoundParam C blk b (filter ++ raw) = .ok (.soundParam blk b filter raw) := by
  have hfilter : (filter ++ raw).extractLsb' 4 4 = filter := BitVec.extractLsb'_append_eq_left
  have hraw : (filter ++ raw).extractLsb' 0 4 = raw := BitVec.extractLsb'_append_eq_right
  rw [decodeSoundParam, if_pos h, hfilter, hraw]

/-- A filter row is read from bits 5 and 4, whatever bits 7 and 6 are (R93). -/
theorem decodeSoundParamVariant_append (h : subBlockExists C blk b = true) (xx f : BitVec 2) (raw : Nibble) :
    decodeSoundParamVariant C blk b (xx ++ f ++ raw) =
      if f = 0 then .ok (.soundParamFilter0 blk b xx raw)
      else if f = 1 then .ok (.soundParamFilter1 blk b xx raw)
      else if f = 2 then .ok (.soundParamFilter2 blk b xx raw)
      else .ok (.soundParamFilter3 blk b xx raw) := by
  rw [decodeSoundParamVariant, extractLsb'_append_low xx f raw, extractLsb'_append_middle xx f raw,
    extractLsb'_append_high xx f raw, if_pos h]

theorem decodeNibble_append (h : b < C.xaSubblocks) (filter raw n : Nibble) :
    decodeNibble C b filter raw (0#4 ++ n) = .ok (.nibble b filter raw n) := by
  have hhigh : (0#4 ++ n).extractLsb' 4 4 = 0 := BitVec.extractLsb'_append_eq_left
  have hn : (0#4 ++ n).extractLsb' 0 4 = n := BitVec.extractLsb'_append_eq_right
  rw [decodeNibble, if_pos h, if_pos hhigh, hn]

end

/-- Settles O3: an operation's word is one of the eight; an item's fields are read back from the append that encodes it. -/
theorem decodeInvertsEncode : Obligations.DecodeInvertsEncode := by
  intro i h
  cases i with
  | submode hi form lo => exact congrArg _ (decodeSubmode_encode hi form lo)
  | codingInfo x e bb rr cc => exact congrArg _ (decodeCodingInfo_codingInfoByte x e bb rr cc)
  | codingInfoMono37800 xe => exact decodeCodingInfoVariant_append xe 0x00
  | codingInfoStereo37800 xe => exact decodeCodingInfoVariant_append xe 0x01
  | codingInfoMono18900 xe => exact decodeCodingInfoVariant_append xe 0x04
  | codingInfoStereo18900 xe => exact decodeCodingInfoVariant_append xe 0x05
  | soundParam blk b filter raw => exact decodeSoundParam_append h filter raw
  | soundParamFilter0 blk b xx raw => exact decodeSoundParamVariant_append h xx 0 raw
  | soundParamFilter1 blk b xx raw => exact decodeSoundParamVariant_append h xx 1 raw
  | soundParamFilter2 blk b xx raw => exact decodeSoundParamVariant_append h xx 2 raw
  | soundParamFilter3 blk b xx raw => exact decodeSoundParamVariant_append h xx 3 raw
  | nibble b filter raw n => exact decodeNibble_append (of_decide_eq_true h) filter raw n
  | _ => rfl

/-! ### Encoding what was decoded -/

/-- Three adjacent fields of a word put it together again. -/
theorem append_fields {u v w : Nat} (x : BitVec (u + v + w)) :
    x.extractLsb' (w + v) u ++ x.extractLsb' w v ++ x.extractLsb' 0 w = x := by
  rw [BitVec.extractLsb'_append_extractLsb'_eq_extractLsb' rfl, BitVec.extractLsb'_append_extractLsb']

theorem append_filterFields (x : Byte) : x.extractLsb' 6 2 ++ x.extractLsb' 4 2 ++ x.extractLsb' 0 4 = x :=
  append_fields (u := 2) (v := 2) (w := 4) x

theorem append_nibbles (x : Byte) : x.extractLsb' 4 4 ++ x.extractLsb' 0 4 = x :=
  BitVec.extractLsb'_append_extractLsb' (w := 4) (len := 4)

theorem append_variantFields (x : Byte) : x.extractLsb' 6 2 ++ x.extractLsb' 0 6 = x :=
  BitVec.extractLsb'_append_extractLsb' (w := 2) (len := 6)

theorem encode_decodeSubmode (x : Byte) : encode (decodeSubmode x) = x := by
  have hbit : ∀ f : BitVec 1, bitOfForm (formOfBit f) = f := by decide
  rw [decodeSubmode, encode, hbit]
  exact append_fields (u := 2) (v := 1) (w := 5) x

theorem encode_decodeCodingInfo (x : Byte) : encode (decodeCodingInfo x) = x := by
  have hfields : x.extractLsb' 7 1 ++ x.extractLsb' 6 1 ++ x.extractLsb' 4 2 ++ x.extractLsb' 2 2 ++
      x.extractLsb' 0 2 = x := by
    rw [BitVec.extractLsb'_append_extractLsb'_eq_extractLsb' (show 7 = 6 + 1 from rfl),
      BitVec.extractLsb'_append_extractLsb'_eq_extractLsb' (show 6 = 4 + 2 from rfl),
      BitVec.extractLsb'_append_extractLsb'_eq_extractLsb' (show 4 = 2 + 2 from rfl),
      BitVec.extractLsb'_append_extractLsb'_eq_extractLsb' (show 2 = 0 + 2 from rfl), BitVec.extractLsb'_eq_self]
  exact hfields

/-- An item of place `p` that encodes to `x` and exists in a sector. -/
def EncodesAt (p : Slot) (x : Byte) (i : Instr) : Prop := encode i = x ∧ slotOf i = p ∧ WellFormed i = true

theorem encodesAt_of_decodeCmd {x : Byte} {i : Instr} (h : decodeCmd x = .ok i) : EncodesAt .cmd x i := by
  have hall : ∀ c ∈ legalCommands, encode c.2 = c.1 ∧ slotOf c.2 = .cmd ∧ WellFormed c.2 = true := by decide
  exact hall _ (decodeCmd_ok_iff.mp h)

theorem encodesAt_of_decodeCodingInfoVariant {x : Byte} {i : Instr} (h : decodeCodingInfoVariant x = .ok i) :
    EncodesAt .codingInfoVariant x i := by
  have hx := append_variantFields x
  unfold decodeCodingInfoVariant at h
  dsimp only at h
  generalize x.extractLsb' 6 2 = xe, x.extractLsb' 0 6 = low at hx h
  subst hx
  split_ifs at h with h0 h1 h4 h5 <;> cases h <;> subst low <;> exact ⟨rfl, rfl, rfl⟩

theorem encodesAt_of_decodeSoundParam {blk b : Nat} {x : Byte} {i : Instr} (h : decodeSoundParam cfg blk b x = .ok i) :
    EncodesAt (.soundParam blk b) x i := by
  unfold decodeSoundParam at h
  split_ifs at h with hplace
  cases h
  exact ⟨append_nibbles x, rfl, hplace⟩

theorem encodesAt_of_decodeSoundParamVariant {blk b : Nat} {x : Byte} {i : Instr}
    (h : decodeSoundParamVariant cfg blk b x = .ok i) : EncodesAt (.soundParamVariant blk b) x i := by
  have hx := append_filterFields x
  have hthree : ∀ f : BitVec 2, f ≠ 0 → f ≠ 1 → f ≠ 2 → f = 3 := by decide
  unfold decodeSoundParamVariant at h
  dsimp only at h
  generalize x.extractLsb' 6 2 = xx, x.extractLsb' 4 2 = f, x.extractLsb' 0 4 = raw at hx h
  subst hx
  split_ifs at h with hplace h0 h1 h2 <;> cases h
  · subst h0; exact ⟨rfl, rfl, hplace⟩
  · subst h1; exact ⟨rfl, rfl, hplace⟩
  · subst h2; exact ⟨rfl, rfl, hplace⟩
  · obtain rfl := hthree f h0 h1 h2
    exact ⟨rfl, rfl, hplace⟩

theorem encodesAt_of_decodeNibble {b : Nat} {filter raw : Nibble} {x : Byte} {i : Instr}
    (h : decodeNibble cfg b filter raw x = .ok i) : EncodesAt (.nibble b filter raw) x i := by
  have hx := append_nibbles x
  unfold decodeNibble at h
  split_ifs at h with hplace hhigh
  cases h
  rw [hhigh] at hx
  exact ⟨hx, rfl, decide_eq_true hplace⟩

/-- Settles O4: place by place, the fields that were read make up the byte. -/
theorem encodeInvertsDecode : Obligations.EncodeInvertsDecode := by
  intro p x i h
  cases p with
  | cmd => exact encodesAt_of_decodeCmd h
  | submode => cases h; exact ⟨encode_decodeSubmode x, rfl, rfl⟩
  | codingInfo => cases h; exact ⟨encode_decodeCodingInfo x, rfl, rfl⟩
  | codingInfoVariant => exact encodesAt_of_decodeCodingInfoVariant h
  | soundParam blk b => exact encodesAt_of_decodeSoundParam h
  | soundParamVariant blk b => exact encodesAt_of_decodeSoundParamVariant h
  | nibble b filter raw => exact encodesAt_of_decodeNibble h

/-- Settles O2: each byte is the encoding of the operation or item beside it, so this is `decodeInvertsEncode` eight times. -/
theorem wordsFromTheSpecDecode : Obligations.WordsFromTheSpecDecode :=
  ⟨decodeInvertsEncode .xaDecode rfl, decodeInvertsEncode .edcCheckMode2 rfl,
    decodeInvertsEncode (.submode 0b01 .form2 0b00100) rfl, decodeInvertsEncode (.codingInfo 1 1 0 1 1) rfl,
    decodeInvertsEncode (.codingInfoMono18900 0b11) rfl, decodeInvertsEncode (.soundParam 17 7 2 9) rfl,
    decodeInvertsEncode (.soundParamFilter1 0 0 0b11 12) rfl, decodeInvertsEncode (.nibble 0 1 12 15) rfl⟩

end Sys2Proof.Machine
end

section
/-! PROOFS. 30_encoding.md, R54, and 41_xa_decode.md, R86 and R87: what the coding-info byte steers
(`UnsupportedCodingRaisesError`, `CodingInfoSteersXaDecode`). `XA.DECODE` and each of the five coding-info items is
`decodeWithCoding` of its byte, so all of them are read off one function. -/

namespace Sys2Proof.Machine

/-! ### The modes of a coding-info byte -/

/-- The three conditions of R87. -/
theorem codingModes_eq_none_iff {ci : Byte} : codingModes ci = none ↔
    ci.extractLsb' 4 2 ≠ 0 ∨ 2 ≤ (ci.extractLsb' 0 2).toNat ∨ 2 ≤ (ci.extractLsb' 2 2).toNat := by
  unfold codingModes
  generalize ci.extractLsb' 4 2 = bb, ci.extractLsb' 0 2 = cc, ci.extractLsb' 2 2 = rr
  decide +revert

theorem codingModes_eq_some_of {ci : Byte} (hbb : ci.extractLsb' 4 2 = 0) (hcc : (ci.extractLsb' 0 2).toNat < 2)
    (hrr : (ci.extractLsb' 2 2).toNat < 2) : ∃ ch rate, codingModes ci = some (ch, rate) := by
  have hsome : codingModes ci ≠ none := by
    rw [ne_eq, codingModes_eq_none_iff, not_or, not_or, not_not, not_le, not_le]
    exact ⟨hbb, hcc, hrr⟩
  obtain ⟨⟨ch, rate⟩, hm⟩ := Option.ne_none_iff_exists'.mp hsome
  exact ⟨ch, rate, hm⟩

section
variable (x e : BitVec 1) (bb rr cc : BitVec 2)

theorem codingInfoByte_fields : (codingInfoByte x e bb rr cc).extractLsb' 4 2 = bb ∧
    (codingInfoByte x e bb rr cc).extractLsb' 2 2 = rr ∧ (codingInfoByte x e bb rr cc).extractLsb' 0 2 = cc := by
  obtain ⟨-, -, hbb, hrr, hcc⟩ := Instr.codingInfo.inj (decodeCodingInfo_codingInfoByte x e bb rr cc)
  exact ⟨hbb, hrr, hcc⟩

/-- Bits 7 and 6 do not select a mode (R103). -/
theorem codingModes_codingInfoByte_highBits (x' e' : BitVec 1) :
    codingModes (codingInfoByte x e bb rr cc) = codingModes (codingInfoByte x' e' bb rr cc) := by
  simp only [codingModes, codingInfoByte_fields]

end

/-! ### Decoding with a coding-info byte -/

theorem decodeWithCoding_of_some (C : Cfg) {ci : Byte} {ch : ChMode} {rate : Rate} (h : codingModes ci = some (ch, rate))
    (s : State) : decodeWithCoding C ci s = decodeSector C ch rate s := by
  rw [decodeWithCoding, h]

theorem decodeWithCoding_of_none (C : Cfg) {ci : Byte} (h : codingModes ci = none) (s : State) :
    decodeWithCoding C ci s = .next (s.raise (.xaUnsupportedCoding ci)) := by
  rw [decodeWithCoding, h]

theorem exec_xaDecode (s : State) : exec .xaDecode s = decodeWithCoding cfg (s.port.sector.read 19) s := rfl

/-- Every coding-info item is the decoding its byte steers, the supported rows by their fixed low six bits (R86). -/
theorem exec_codingItem {i : Instr} (h : slotOf i = .codingInfo ∨ slotOf i = .codingInfoVariant) (s : State) :
    exec i s = decodeWithCoding cfg (encode i) s := by
  cases i with
  | codingInfo x e bb rr cc => rfl
  | codingInfoMono37800 xe =>
    have hm : codingModes (xe ++ 0x00#6) = some (.mono, .hz37800) := by decide +revert
    exact (decodeWithCoding_of_some cfg hm s).symm
  | codingInfoStereo37800 xe =>
    have hm : codingModes (xe ++ 0x01#6) = some (.stereo, .hz37800) := by decide +revert
    exact (decodeWithCoding_of_some cfg hm s).symm
  | codingInfoMono18900 xe =>
    have hm : codingModes (xe ++ 0x04#6) = some (.mono, .hz18900) := by decide +revert
    exact (decodeWithCoding_of_some cfg hm s).symm
  | codingInfoStereo18900 xe =>
    have hm : codingModes (xe ++ 0x05#6) = some (.stereo, .hz18900) := by decide +revert
    exact (decodeWithCoding_of_some cfg hm s).symm
  | _ => rcases h with h | h <;> cases h

/-- The item a byte reads as by its fields is the decoding that byte steers. -/
theorem exec_decodeCodingInfo (x : Byte) (s : State) :
    exec (decodeCodingInfo x) s = decodeWithCoding cfg x s := by
  rw [exec_codingItem (.inl rfl), encode_decodeCodingInfo]

/-- Settles O22: by `exec_codingItem` an item is the decoding of its byte, and `encodesAt_of_decodeCodingInfoVariant` says
that a row's byte is the one it was read from. -/
theorem codingInfoSteersXaDecode : Obligations.CodingInfoSteersXaDecode := by
  refine ⟨fun s => ?_, fun x i s h => ?_⟩
  · rw [exec_xaDecode, exec_decodeCodingInfo]
  · obtain ⟨hbyte, hslot, -⟩ := encodesAt_of_decodeCodingInfoVariant h
    rw [exec_codingItem (.inr hslot), hbyte, exec_decodeCodingInfo]

/-- Without a queue capacity a supported byte always leads to a next state (R86, R112). -/
theorem decodeWithCoding_next {ci : Byte} {ch : ChMode} {rate : Rate} (h : codingModes ci = some (ch, rate)) (s : State) :
    decodeWithCoding cfg ci s = .next ((decodeBlocks cfg (s.setModes ch rate)).post
      (.decoded ((decodeBlocks cfg (s.setModes ch rate)).chL.q.length - s.chL.q.length))) := by
  rw [decodeWithCoding_of_some cfg h, decodeSector_next rfl]

theorem decodeBlocks_post_results (ch : ChMode) (rate : Rate) (s : State) (v : OpResult) :
    ((decodeBlocks cfg (s.setModes ch rate)).post v).results = s.results ++ [v] := by
  rw [State.post_results, (decodeBlocks_onlyChannels cfg (s.setModes ch rate)).results, State.setModes_results]

/-- Settles O21: `codingModes_eq_none_iff` for an unsupported byte, of the sector and of the item, and
`codingModes_eq_some_of` for a supported one. -/
theorem unsupportedCodingRaisesError : Obligations.UnsupportedCodingRaisesError := by
  refine ⟨fun s h => exec_xaDecode_of_unsupported (codingModes_eq_none_iff.mpr h), fun s x e bb rr cc h => ?_,
    fun s hbb hcc hrr => ?_, fun s x e x' e' rr cc hrr hcc => ?_⟩
  · obtain ⟨hbb, hrr, hcc⟩ := codingInfoByte_fields x e bb rr cc
    rw [exec_codingItem (.inl rfl)]
    refine decodeWithCoding_of_none cfg (codingModes_eq_none_iff.mpr ?_) s
    rwa [encode, hbb, hrr, hcc]
  · obtain ⟨ch, rate, hm⟩ := codingModes_eq_some_of hbb hcc hrr
    exact ⟨_, _, decodeWithCoding_next hm s, decodeBlocks_post_results ch rate s _⟩
  · obtain ⟨hbb, hrr', hcc'⟩ := codingInfoByte_fields x e 0 rr cc
    obtain ⟨ch, rate, hm⟩ := codingModes_eq_some_of hbb (by rwa [hcc']) (by rwa [hrr'])
    have hm' := (codingModes_codingInfoByte_highBits x' e' 0 rr cc x e).trans hm
    exact ⟨_, decodeWithCoding_next hm s, decodeWithCoding_next hm' s⟩

end Sys2Proof.Machine
end

section
/-! PROOFS. 42_xa_resample.md, R106, R107 and R113: what many pushes make of one channel (`EverySixthPushEmitsSeven`). By
`push_chan_self` a push is a function of its channel alone, so the counting is done on a channel and not on the state. -/

namespace Sys2Proof.Machine

/-! ### Pushes on one channel -/

/-- What a push makes of its channel (R106). -/
def ChanState.push (C : Cfg) (y : Sample) (x : ChanState) : ChanState :=
  if x.sixstep ≤ 1 then
    ChanState.enqueue { x.advance C y with sixstep := C.sixstepPeriod } (zigzagOutputs C (x.advance C y))
  else x.advance C y

/-- What pushes in order make of their channel. -/
def ChanState.pushAll (C : Cfg) (ys : List Sample) (x : ChanState) : ChanState := ys.foldl (fun x y => x.push C y) x

theorem push_chan (C : Cfg) (c : Chan) (y : Sample) (s : State) : (push C c y s).chan c = (s.chan c).push C y :=
  push_chan_self C c y s

theorem pushAll_chan (C : Cfg) (c : Chan) (ys : List Sample) (s : State) :
    (pushAll C c ys s).chan c = (s.chan c).pushAll C ys :=
  (List.foldl_hom (fun s : State => s.chan c) fun s y => (push_chan C c y s).symm).symm

theorem pushAll_onlyDecodes (C : Cfg) {c d : Chan} (hd : d ≠ c) (ys : List Sample) (s : State) :
    OnlyDecodes c d s (pushAll C c ys s) :=
  foldl_keeps (OnlyDecodes.refl c d) (fun _ _ _ => OnlyDecodes.trans) _ (fun s y => push_onlyDecodes C hd y s) ys s

/-! ### What pushes do to each element of the channel -/

theorem ChanState.push_p (C : Cfg) (y : Sample) (x : ChanState) : (x.push C y).p = (x.p + 1) % C.ringEntries := by
  unfold ChanState.push
  split <;> rfl

theorem ChanState.push_ring (C : Cfg) (y : Sample) (x : ChanState) : (x.push C y).ring = x.ring.set x.p y := by
  unfold ChanState.push
  split <;> rfl

theorem ChanState.push_sixstep (C : Cfg) (y : Sample) (x : ChanState) :
    (x.push C y).sixstep = if x.sixstep ≤ 1 then C.sixstepPeriod else x.sixstep - 1 := by
  unfold ChanState.push
  split <;> rfl

theorem ChanState.push_q (C : Cfg) (y : Sample) (x : ChanState) :
    (x.push C y).q = x.q ++ if x.sixstep ≤ 1 then zigzagOutputs C (x.advance C y) else [] := by
  unfold ChanState.push
  split <;> simp

theorem ChanState.pushAll_p (ys : List Sample) {x : ChanState} (h : x.p < 32) :
    (x.pushAll cfg ys).p = (x.p + ys.length) % 32 := by
  induction ys generalizing x with
  | nil => exact (Nat.mod_eq_of_lt h).symm
  | cons y ys ih =>
    have hp : (x.push cfg y).p = (x.p + 1) % 32 := ChanState.push_p cfg y x
    have hrest : ((x.push cfg y).pushAll cfg ys).p = ((x.push cfg y).p + ys.length) % 32 := ih (by omega)
    rw [List.length_cons]
    exact hrest.trans (by omega)

theorem ChanState.pushAll_ring_length (C : Cfg) (ys : List Sample) (x : ChanState) :
    (x.pushAll C ys).ring.length = x.ring.length :=
  (foldl_keeps (R := fun x x' : ChanState => x.ring.length = x'.ring.length) (fun _ => rfl) (fun _ _ _ => Eq.trans) _
    (fun x y => by rw [ChanState.push_ring, List.length_set]) ys x).symm

theorem ChanState.pushAll_q_prefix (C : Cfg) (ys : List Sample) (x : ChanState) : x.q <+: (x.pushAll C ys).q :=
  foldl_keeps (R := fun x x' : ChanState => x.q <+: x'.q) (fun x => List.prefix_refl x.q)
    (fun _ _ _ => List.IsPrefix.trans) _ (fun x y => ⟨_, (ChanState.push_q C y x).symm⟩) ys x

/-- The counter and the number of outputs, from any counter of 1 to 6: the counter stands as if `6 - SIXSTEP` samples had
been pushed since the last outputs (R107). -/
theorem ChanState.pushAll_count (ys : List Sample) {x : ChanState} (h : 1 ≤ x.sixstep ∧ x.sixstep ≤ 6) :
    (x.pushAll cfg ys).sixstep = 6 - (6 - x.sixstep + ys.length) % 6 ∧
    (x.pushAll cfg ys).q.length = x.q.length + 7 * ((6 - x.sixstep + ys.length) / 6) := by
  induction ys generalizing x with
  | nil =>
    refine ⟨?_, ?_⟩
    · change x.sixstep = 6 - (6 - x.sixstep + 0) % 6
      omega
    · change x.q.length = x.q.length + 7 * ((6 - x.sixstep + 0) / 6)
      omega
  | cons y ys ih =>
    have hsix : (x.push cfg y).sixstep = if x.sixstep ≤ 1 then 6 else x.sixstep - 1 := ChanState.push_sixstep cfg y x
    have hq : (x.push cfg y).q.length = x.q.length + if x.sixstep ≤ 1 then 7 else 0 := by
      rw [ChanState.push_q, List.length_append, apply_ite List.length, zigzagOutputs_length]
      rfl
    obtain ⟨hsix', hq'⟩ := ih (x := x.push cfg y) (by split at hsix <;> omega)
    rw [List.length_cons]
    refine ⟨hsix'.trans ?_, hq'.trans ?_⟩ <;> split at hsix <;> split at hq <;> omega

/-- Settles O36: `ChanState.pushAll_p` and `ChanState.pushAll_count` on the channel itself, and `OnlyDecodes` for the other,
which gains in mono what the channel gained. -/
theorem everySixthPushEmitsSeven : Obligations.EverySixthPushEmitsSeven := by
  intro s c ys hsix hp
  obtain ⟨hsix', hq'⟩ := ChanState.pushAll_count ys (x := s.chan c) (by omega)
  rw [hsix, Nat.sub_self, Nat.zero_add] at hsix' hq'
  rw [pushAll_chan]
  refine ⟨hsix', ChanState.pushAll_p ys hp, hq', fun d hd => ?_⟩
  obtain ⟨outs, hself, hother⟩ := (pushAll_onlyDecodes cfg hd ys s).outputs
  have houts : outs.length = 7 * (ys.length / 6) := by
    have := congrArg List.length hself
    rw [pushAll_chan, List.length_append] at this
    omega
  rw [hother]
  split <;> simp [houts]

end Sys2Proof.Machine
end

section
/-! PROOFS. 41_xa_decode.md, R89 to R99: `XA.DECODE` as what it makes of one channel, the ground of `XaDecodeIsTwoPasses`. A
channel that the mode uses is decoded by a function of that channel, the sector and the rate (`Decoding.decodeBlocks`); that function is the second pass over what the first pass decodes (`ChanState.decodeBlocks_eq`),
because pushing neither reads nor writes the history. -/

namespace Sys2Proof.Machine

/-! ### Decoding on one channel -/

/-- What feeding a sample makes of its channel (R98). -/
def ChanState.feed (C : Cfg) (rate : Rate) (y : Sample) (x : ChanState) : ChanState :=
  match rate with
  | .hz37800 => x.push C y
  | .hz18900 => (x.push C y).push C y

/-- What one nibble makes of its channel (R94, R95). -/
def ChanState.decodeSample (C : Cfg) (rate : Rate) (filter raw n : Nibble) (x : ChanState) : ChanState :=
  let y := decodedSample C (C.xaFilter filter) (C.xaEffShift raw) n x
  (x.remember y).feed C rate y

/-- What one sub-block makes of its channel (R94). -/
def ChanState.decodeSubBlock (C : Cfg) (rate : Rate) (m : Memory) (blk b : Nat) (x : ChanState) : ChanState :=
  let sp := sectorSoundParam C m blk b
  (List.range C.xaSamples).foldl
    (fun x j => x.decodeSample C rate (filterNibble sp) (rawShift sp) (sectorNibble C m blk b j)) x

/-- What the sub-blocks `bs` of every block make of their channel (R89 to R91). -/
def ChanState.decodeBlocks (C : Cfg) (rate : Rate) (m : Memory) (bs : List Nat) (x : ChanState) : ChanState :=
  (List.range C.xaBlocks).foldl (fun x blk => bs.foldl (fun x b => x.decodeSubBlock C rate m blk b) x) x

theorem feed_chan (C : Cfg) (c : Chan) (y : Sample) (s : State) :
    (feed C c y s).chan c = (s.chan c).feed C s.modeRate y := by
  cases hr : s.modeRate with
  | hz37800 => rw [feed_of_hz37800 C c y hr, push_chan, ChanState.feed]
  | hz18900 => rw [feed_of_hz18900 C c y hr, push_chan, push_chan, ChanState.feed]

theorem decodeSample_chan (C : Cfg) (c : Chan) (filter raw n : Nibble) (s : State) :
    (decodeSample C c filter raw n s).chan c = (s.chan c).decodeSample C s.modeRate filter raw n := by
  rw [decodeSample, feed_chan, State.chan_setChan, State.setChan_modeRate, ChanState.decodeSample]

/-- Channel `c` of the state is `x`, and it decodes sector `m` under the modes given. -/
structure Decoding (c : Chan) (ch : ChMode) (rate : Rate) (m : Memory) (s : State) (x : ChanState) : Prop where
  chan : s.chan c = x
  modeCh : s.modeCh = ch
  modeRate : s.modeRate = rate
  sector : s.port.sector = m

section
variable {c : Chan} {ch : ChMode} {rate : Rate} {m : Memory} {s : State} {x : ChanState}

theorem Decoding.of_onlyChannels (h : Decoding c ch rate m s x) {t : State} {y : ChanState} (ht : OnlyChannels s t)
    (hc : t.chan c = y) : Decoding c ch rate m t y where
  chan := hc
  modeCh := ht.modeCh.trans h.modeCh
  modeRate := ht.modeRate.trans h.modeRate
  sector := by rw [ht.port, h.sector]

theorem Decoding.feed (h : Decoding c ch rate m s x) (C : Cfg) (y : Sample) :
    Decoding c ch rate m (feed C c y s) (x.feed C rate y) :=
  h.of_onlyChannels (feed_onlyChannels C c y s) (by rw [feed_chan, h.chan, h.modeRate])

theorem Decoding.decodeSample (h : Decoding c ch rate m s x) (C : Cfg) (filter raw n : Nibble) :
    Decoding c ch rate m (decodeSample C c filter raw n s) (x.decodeSample C rate filter raw n) :=
  h.of_onlyChannels (decodeSample_onlyChannels C c filter raw n s) (by rw [decodeSample_chan, h.chan, h.modeRate])

/-- A sub-block of another channel, which only a stereo sector has, leaves channel `c` alone. -/
theorem Decoding.decodeSubBlock (h : Decoding c ch rate m s x) (used : ch = .stereo ∨ c = .L) (C : Cfg) (blk b : Nat) :
    Decoding c ch rate m (decodeSubBlock C blk b s) (if chanOf ch b = c then x.decodeSubBlock C rate m blk b else x) := by
  unfold Machine.decodeSubBlock
  rw [h.modeCh, h.sector]
  split
  · next hc =>
    rw [hc]
    refine List.foldl_rel h fun j _ s x h => ?_
    rw [h.sector]
    exact h.decodeSample C _ _ _
  · next hc =>
    have hstereo : ch = .stereo := by
      cases ch with
      | stereo => rfl
      | mono =>
        have hL : c = .L := used.resolve_left (by decide)
        exact absurd (by rw [chanOf_mono, hL]) hc
    refine h.of_onlyChannels (decodeSamples_onlyChannels ..) ?_
    rw [(decodeSamples_onlyDecodes C (Ne.symm hc) ..).chan_of_stereo (h.modeCh.trans hstereo), h.chan]

theorem Decoding.decodeBlock (h : Decoding c ch rate m s x) (used : ch = .stereo ∨ c = .L) (C : Cfg) (blk : Nat) :
    Decoding c ch rate m (decodeBlock C blk s)
      (((List.range C.xaSubblocks).filter fun b => chanOf ch b = c).foldl
        (fun x b => x.decodeSubBlock C rate m blk b) x) := by
  rw [List.foldl_filter]
  refine List.foldl_rel h fun b _ s x h => ?_
  simpa only [decide_eq_true_eq] using h.decodeSubBlock used C blk b

/-- A channel that the mode uses is decoded from its own sub-blocks (R90, R91). -/
theorem Decoding.decodeBlocks (h : Decoding c ch rate m s x) (used : ch = .stereo ∨ c = .L) (C : Cfg) :
    Decoding c ch rate m (decodeBlocks C s)
      (x.decodeBlocks C rate m ((List.range C.xaSubblocks).filter fun b => chanOf ch b = c)) :=
  List.foldl_rel h fun blk _ _ _ h => h.decodeBlock used C blk

theorem Decoding.feedAll (h : Decoding c ch rate m s x) (C : Cfg) (ys : List Sample) :
    Decoding c ch rate m (feedAll C c ys s) (ys.foldl (fun x y => x.feed C rate y) x) :=
  List.foldl_rel h fun y _ _ _ h => h.feed C y

end

/-! ### The two passes of one channel -/

section
variable (C : Cfg) (rate : Rate) (x : ChanState) (y z : Sample)

theorem ChanState.push_remember : (x.remember z).push C y = (x.push C y).remember z := by
  unfold ChanState.push
  rw [ChanState.remember_sixstep]
  split <;> rfl

theorem ChanState.feed_remember : (x.remember z).feed C rate y = (x.feed C rate y).remember z := by
  cases rate <;> simp only [ChanState.feed, ChanState.push_remember]

theorem ChanState.push_history : (x.push C y).old = x.old ∧ (x.push C y).older = x.older := by
  unfold ChanState.push
  split <;> exact ⟨rfl, rfl⟩

theorem ChanState.feed_history : (x.feed C rate y).old = x.old ∧ (x.feed C rate y).older = x.older := by
  cases rate <;> simp only [ChanState.feed, ChanState.push_history, and_self]

end

/-- The second pass: the samples decoded so far, fed to the channel that has their history (R99). -/
def secondPass (C : Cfg) (rate : Rate) (acc : List Sample × ChanState) : ChanState :=
  acc.1.foldl (fun x y => x.feed C rate y) acc.2

theorem secondPass_history (C : Cfg) (rate : Rate) (acc : List Sample × ChanState) :
    (secondPass C rate acc).old = acc.2.old ∧ (secondPass C rate acc).older = acc.2.older :=
  foldl_keeps (R := fun x x' : ChanState => x'.old = x.old ∧ x'.older = x.older) (fun _ => ⟨rfl, rfl⟩)
    (fun _ _ _ h k => ⟨k.1.trans h.1, k.2.trans h.2⟩) _ (fun x y => ChanState.feed_history C rate x y) acc.1 acc.2

theorem secondPass_remember (C : Cfg) (rate : Rate) (acc : List Sample × ChanState) (z : Sample) :
    secondPass C rate (acc.1, acc.2.remember z) = (secondPass C rate acc).remember z :=
  List.foldl_hom (fun x : ChanState => x.remember z) fun x y => ChanState.feed_remember C rate x y z

/-- One more sample of the first pass is one sample decoded and fed after the second pass so far. -/
theorem secondPass_append (C : Cfg) (rate : Rate) (filter raw n : Nibble) (acc : List Sample × ChanState) :
    let y := decodedSample C (C.xaFilter filter) (C.xaEffShift raw) n acc.2
    secondPass C rate (acc.1 ++ [y], acc.2.remember y) =
      (secondPass C rate acc).decodeSample C rate filter raw n := by
  intro y
  have hy : decodedSample C (C.xaFilter filter) (C.xaEffShift raw) n (secondPass C rate acc) = y := by
    rw [decodedSample, predict, (secondPass_history C rate acc).1, (secondPass_history C rate acc).2]
    rfl
  rw [ChanState.decodeSample, hy, ← secondPass_remember, secondPass, List.foldl_append]
  rfl

theorem decodeSubBlock_secondPass (C : Cfg) (rate : Rate) (m : Memory) (blk b : Nat) (acc : List Sample × ChanState) :
    (secondPass C rate acc).decodeSubBlock C rate m blk b = secondPass C rate (passSubBlock C m blk b acc) :=
  List.foldl_hom (secondPass C rate) fun acc _ => (secondPass_append C rate _ _ _ acc).symm

/-- Decoding and resampling sample by sample is the second pass over the first (R99). -/
theorem ChanState.decodeBlocks_eq (C : Cfg) (rate : Rate) (m : Memory) (bs : List Nat) (x : ChanState) :
    x.decodeBlocks C rate m bs = secondPass C rate (passChannel C m bs x) :=
  List.foldl_hom (init := ([], x)) (secondPass C rate) fun _ blk =>
    List.foldl_hom (secondPass C rate) fun acc b => decodeSubBlock_secondPass C rate m blk b acc

/-! ### The two passes of the state -/

theorem feedAll_onlyChannels (C : Cfg) (c : Chan) (ys : List Sample) (s : State) : OnlyChannels s (feedAll C c ys s) :=
  foldl_keeps OnlyChannels.refl (fun _ _ _ => OnlyChannels.trans) _ (fun s y => feed_onlyChannels C c y s) ys s

theorem feedAll_onlyDecodes (C : Cfg) {c d : Chan} (hd : d ≠ c) (ys : List Sample) (s : State) :
    OnlyDecodes c d s (feedAll C c ys s) :=
  foldl_keeps (OnlyDecodes.refl c d) (fun _ _ _ => OnlyDecodes.trans) _ (fun s y => feed_onlyDecodes C hd y s) ys s

theorem feedAll_chan (C : Cfg) (c : Chan) (ys : List Sample) (s : State) :
    (feedAll C c ys s).chan c = secondPass C s.modeRate (ys, s.chan c) :=
  (Decoding.feedAll ⟨rfl, rfl, rfl, rfl⟩ C ys).chan

theorem OnlyChannels.ext {s t u : State} (ht : OnlyChannels s t) (hu : OnlyChannels s u)
    (hL : t.chan .L = u.chan .L) (hR : t.chan .R = u.chan .R) : t = u := by
  rw [State.chan_L, State.chan_L] at hL
  rw [State.chan_R, State.chan_R] at hR
  rw [ht.eq_with, hu.eq_with, hL, hR]

/-- What a channel has besides its history: the first pass leaves it alone. -/
structure SameResampler (x y : ChanState) : Prop where
  ring : y.ring = x.ring
  p : y.p = x.p
  sixstep : y.sixstep = x.sixstep
  q : y.q = x.q

theorem SameResampler.refl (x : ChanState) : SameResampler x x := ⟨rfl, rfl, rfl, rfl⟩

theorem SameResampler.trans {x y z : ChanState} (h : SameResampler x y) (k : SameResampler y z) : SameResampler x z :=
  ⟨k.ring.trans h.ring, k.p.trans h.p, k.sixstep.trans h.sixstep, k.q.trans h.q⟩

/-- A pass on to `acc'` decodes `n` more samples and writes the history only. -/
structure Passes (n : Nat) (acc acc' : List Sample × ChanState) : Prop where
  length : acc'.1.length = acc.1.length + n
  resampler : SameResampler acc.2 acc'.2

/-- If each round of a loop decodes `n` samples, the loop decodes `n` samples a round. -/
theorem foldl_passes {α : Type} {n : Nat} {f : List Sample × ChanState → α → List Sample × ChanState}
    (h : ∀ acc a, Passes n acc (f acc a)) (l : List α) (acc : List Sample × ChanState) :
    Passes (l.length * n) acc (l.foldl f acc) := by
  induction l generalizing acc with
  | nil => exact ⟨by simp, .refl _⟩
  | cons a l ih =>
    refine ⟨?_, (h acc a).resampler.trans (ih (f acc a)).resampler⟩
    rw [List.foldl_cons, (ih (f acc a)).length, (h acc a).length, List.length_cons]
    ring

theorem passSubBlock_passes (C : Cfg) (m : Memory) (blk b : Nat) (acc : List Sample × ChanState) :
    Passes C.xaSamples acc (passSubBlock C m blk b acc) := by
  have h : Passes ((List.range C.xaSamples).length * 1) acc (passSubBlock C m blk b acc) := by
    unfold passSubBlock
    refine foldl_passes (fun _ _ => ?_) _ acc
    exact ⟨List.length_append, rfl, rfl, rfl, rfl⟩
  rwa [List.length_range, Nat.mul_one] at h

theorem passChannel_passes (C : Cfg) (m : Memory) (bs : List Nat) (x : ChanState) :
    Passes (C.xaBlocks * (bs.length * C.xaSamples)) ([], x) (passChannel C m bs x) := by
  have h := foldl_passes (fun acc blk => foldl_passes (fun acc b => passSubBlock_passes C m blk b acc) bs acc)
    (List.range C.xaBlocks) ([], x)
  rwa [List.length_range] at h

end Sys2Proof.Machine
end

section
/-! PROOFS. 41_xa_decode.md, R97 to R100, and 42_xa_resample.md, R112: a whole sector. `XA.DECODE` is the two passes
(`XaDecodeIsTwoPasses`), so a sector is a known number of pushes on each channel that the mode uses, and the number of its
outputs (`XaDecodeAnswersItsOutputs`, `CodingInfoRowsAnswerTheirOutputs`, `FiniteQueueCapRefuses`) is counted by
`ChanState.pushAll_count`. -/

namespace Sys2Proof.Machine

/-! ### Both passes of a sector -/

/-- The sub-blocks of a channel (R90, R91). -/
def subBlocksOf (ch : ChMode) (c : Chan) : List Nat := (List.range 8).filter fun b => chanOf ch b = c

theorem subBlocksOf_mono : subBlocksOf .mono .L = [0, 1, 2, 3, 4, 5, 6, 7] := by decide

theorem subBlocksOf_stereo_L : subBlocksOf .stereo .L = [0, 2, 4, 6] := by decide

theorem subBlocksOf_stereo_R : subBlocksOf .stereo .R = [1, 3, 5, 7] := by decide

/-- A channel that the mode uses is the second pass over its first (R99). -/
theorem decodeBlocks_chan {s : State} {c : Chan} (used : s.modeCh = .stereo ∨ c = .L) :
    (decodeBlocks cfg s).chan c =
      secondPass cfg s.modeRate (passChannel cfg s.port.sector (subBlocksOf s.modeCh c) (s.chan c)) := by
  have h : Decoding c s.modeCh s.modeRate s.port.sector s (s.chan c) := ⟨rfl, rfl, rfl, rfl⟩
  exact (h.decodeBlocks used cfg).chan.trans (ChanState.decodeBlocks_eq ..)

/-- In mono the other channel gains what joined the queue of the channel that decodes (R111). -/
theorem OnlyDecodes.chan_of_mono {c d : Chan} {s t : State} (h : OnlyDecodes c d s t) (hm : s.modeCh = .mono) :
    t.chan d = (s.chan d).enqueue ((t.chan c).q.drop (s.chan c).q.length) := by
  obtain ⟨ys, hc, hd⟩ := h.outputs
  rw [hc, List.drop_left, hd, if_pos hm]

theorem twoPassBlocks_of_mono (C : Cfg) {s : State} (hm : s.modeCh = .mono) :
    let pl := passChannel C s.port.sector [0, 1, 2, 3, 4, 5, 6, 7] s.chL
    twoPassBlocks C s = feedAll C .L pl.1 (s.setChan .L pl.2) := by
  unfold twoPassBlocks
  split
  · rfl
  · next h => cases hm.symm.trans h

theorem twoPassBlocks_of_stereo (C : Cfg) {s : State} (hm : s.modeCh = .stereo) :
    let pl := passChannel C s.port.sector [0, 2, 4, 6] s.chL
    let pr := passChannel C s.port.sector [1, 3, 5, 7] s.chR
    twoPassBlocks C s = feedAll C .R pr.1 (feedAll C .L pl.1 ((s.setChan .L pl.2).setChan .R pr.2)) := by
  unfold twoPassBlocks
  split
  · next h => cases hm.symm.trans h
  · rfl

theorem decodeBlocks_eq_twoPassBlocks_of_mono {s : State} (hm : s.modeCh = .mono) :
    decodeBlocks cfg s = twoPassBlocks cfg s := by
  generalize hpl : passChannel cfg s.port.sector [0, 1, 2, 3, 4, 5, 6, 7] s.chL = pl
  have htwo : twoPassBlocks cfg s = feedAll cfg .L pl.1 (s.setChan .L pl.2) := hpl ▸ twoPassBlocks_of_mono cfg hm
  have hdecode : (decodeBlocks cfg s).chan .L = secondPass cfg s.modeRate pl := by
    rw [decodeBlocks_chan (.inr rfl), hm, subBlocksOf_mono, State.chan_L, hpl]
  have hq : pl.2.q = s.chL.q := by
    rw [← hpl, (passChannel_passes ..).resampler.q]
  have hL : (feedAll cfg .L pl.1 (s.setChan .L pl.2)).chan .L = (decodeBlocks cfg s).chan .L := by
    rw [feedAll_chan, State.chan_setChan, State.setChan_modeRate, hdecode]
  have decodes : OnlyDecodes .L .R s (feedAll cfg .L pl.1 (s.setChan .L pl.2)) :=
    (setChan_onlyDecodes (by decide) hq).trans (feedAll_onlyDecodes cfg (by decide) _ _)
  rw [htwo]
  refine (decodeBlocks_onlyChannels cfg s).ext
    ((setChan_onlyChannels s .L pl.2).trans (feedAll_onlyChannels cfg .L pl.1 _)) hL.symm ?_
  have hR := decodes.chan_of_mono hm
  rw [hL, ← (decodeBlocks_onlyDecodes cfg hm).chan_of_mono hm] at hR
  exact hR.symm

theorem decodeBlocks_eq_twoPassBlocks_of_stereo {s : State} (hm : s.modeCh = .stereo) :
    decodeBlocks cfg s = twoPassBlocks cfg s := by
  generalize hpl : passChannel cfg s.port.sector [0, 2, 4, 6] s.chL = pl
  generalize hpr : passChannel cfg s.port.sector [1, 3, 5, 7] s.chR = pr
  generalize hs' : (s.setChan .L pl.2).setChan .R pr.2 = s'
  have start : OnlyChannels s s' := by
    rw [← hs']
    exact (setChan_onlyChannels s .L pl.2).trans (setChan_onlyChannels _ .R pr.2)
  have hchL : s'.chan .L = pl.2 := by rw [← hs']; rfl
  have hchR : s'.chan .R = pr.2 := by rw [← hs']; rfl
  have htwo : twoPassBlocks cfg s = feedAll cfg .R pr.1 (feedAll cfg .L pl.1 s') := by
    rw [← hs', ← hpl, ← hpr]
    exact twoPassBlocks_of_stereo cfg hm
  have feedL : OnlyChannels s' (feedAll cfg .L pl.1 s') := feedAll_onlyChannels cfg .L pl.1 s'
  have hL : (feedAll cfg .R pr.1 (feedAll cfg .L pl.1 s')).chan .L = (decodeBlocks cfg s).chan .L := by
    rw [(feedAll_onlyDecodes cfg (by decide) pr.1 _).chan_of_stereo (feedL.modeCh.trans (start.modeCh.trans hm)),
      feedAll_chan, hchL, start.modeRate, decodeBlocks_chan (.inl hm), hm, subBlocksOf_stereo_L, State.chan_L, hpl]
  have hR : (feedAll cfg .R pr.1 (feedAll cfg .L pl.1 s')).chan .R = (decodeBlocks cfg s).chan .R := by
    rw [feedAll_chan, (feedAll_onlyDecodes cfg (by decide) pl.1 s').chan_of_stereo (start.modeCh.trans hm), hchR,
      feedL.modeRate, start.modeRate, decodeBlocks_chan (.inl hm), hm, subBlocksOf_stereo_R, State.chan_R, hpr]
  rw [htwo]
  exact (decodeBlocks_onlyChannels cfg s).ext ((start.trans feedL).trans (feedAll_onlyChannels cfg .R pr.1 _)) hL.symm
    hR.symm

/-- Settles O25: `XA.DECODE` decodes the blocks, and in either mode that is the two passes. -/
theorem xaDecodeIsTwoPasses : Obligations.XaDecodeIsTwoPasses := by
  intro s ch rate h
  have hblocks : decodeBlocks cfg (s.setModes ch rate) = twoPassBlocks cfg (s.setModes ch rate) := by
    cases ch with
    | mono => exact decodeBlocks_eq_twoPassBlocks_of_mono rfl
    | stereo => exact decodeBlocks_eq_twoPassBlocks_of_stereo rfl
  rw [exec_xaDecode_of_supported h, hblocks]

/-! ### The number of outputs -/

/-- How often a sample is pushed (R98). -/
def pushesPerSample : Rate → Nat
  | .hz37800 => 1
  | .hz18900 => 2

/-- How often one sector pushes on a channel: 18 blocks, its sub-blocks, 28 samples each (R97). -/
def pushesOf (ch : ChMode) (c : Chan) (rate : Rate) : Nat :=
  18 * ((subBlocksOf ch c).length * 28) * pushesPerSample rate

/-- The pushes of a sector are a whole number of turns of the counter and of the ring, and their outputs are those of R97. -/
theorem pushesOf_eq {ch : ChMode} {c : Chan} (used : ch = .stereo ∨ c = .L) (rate : Rate) :
    pushesOf ch c rate % 6 = 0 ∧ pushesOf ch c rate % 32 = 0 ∧ 7 * (pushesOf ch c rate / 6) = outputsOf ch rate := by
  cases ch with
  | mono =>
    obtain rfl := used.resolve_left (by decide)
    cases rate <;> decide
  | stereo => cases c <;> cases rate <;> decide

theorem secondPass_eq_pushAll (C : Cfg) (rate : Rate) (acc : List Sample × ChanState) :
    secondPass C rate acc =
      acc.2.pushAll C (acc.1.flatMap fun y => List.replicate (pushesPerSample rate) y) := by
  rw [ChanState.pushAll, List.foldl_flatMap, secondPass]
  cases rate <;> rfl

/-- What one sector makes of a channel that the mode uses, from a counter of 6. -/
structure DecodesSector (outputs : Nat) (x y : ChanState) : Prop where
  sixstep : y.sixstep = 6
  p : x.p < 32 → y.p = x.p
  ring : y.ring.length = x.ring.length
  q : ∃ ys, y.q = x.q ++ ys ∧ ys.length = outputs

theorem pushAll_decodesSector {x : ChanState} (h : x.sixstep = 6) {zs : List Sample} (h6 : zs.length % 6 = 0)
    (h32 : zs.length % 32 = 0) : DecodesSector (7 * (zs.length / 6)) x (x.pushAll cfg zs) := by
  obtain ⟨hsix, hq⟩ := ChanState.pushAll_count zs (x := x) (by omega)
  obtain ⟨ys, hys⟩ := ChanState.pushAll_q_prefix cfg zs x
  refine ⟨by omega, fun hp => ?_, ChanState.pushAll_ring_length cfg zs x, ys, hys.symm, ?_⟩
  · rw [ChanState.pushAll_p zs hp]
    omega
  · rw [← hys, List.length_append] at hq
    omega

theorem decodeBlocks_decodesSector {s : State} {c : Chan} (used : s.modeCh = .stereo ∨ c = .L)
    (h : (s.chan c).sixstep = 6) :
    DecodesSector (outputsOf s.modeCh s.modeRate) (s.chan c) ((decodeBlocks cfg s).chan c) := by
  rw [decodeBlocks_chan used, secondPass_eq_pushAll]
  generalize hacc : passChannel cfg s.port.sector (subBlocksOf s.modeCh c) (s.chan c) = acc
  have pass := passChannel_passes cfg s.port.sector (subBlocksOf s.modeCh c) (s.chan c)
  rw [hacc] at pass
  obtain ⟨hring, hp, hsix, hq⟩ := pass.resampler
  have hlen : acc.1.length = 18 * ((subBlocksOf s.modeCh c).length * 28) := pass.length.trans (Nat.zero_add _)
  have hpushes : (acc.1.flatMap fun y => List.replicate (pushesPerSample s.modeRate) y).length =
      pushesOf s.modeCh c s.modeRate := by
    simp [List.length_flatMap, hlen, pushesOf]
  obtain ⟨h6, h32, hout⟩ := pushesOf_eq used s.modeRate
  rw [← hpushes] at h6 h32 hout
  obtain ⟨tsix, tp, tring, tq⟩ := pushAll_decodesSector (hsix.trans h) h6 h32
  rw [hp] at tp
  rw [hring] at tring
  rw [hq, hout] at tq
  exact ⟨tsix, tp, tring, tq⟩

/-- What one sector makes of both channels, from counters of 6: in mono they gain the same samples (R111). -/
theorem decodeBlocks_outputs {s : State} (hL : s.chL.sixstep = 6) (hR : s.chR.sixstep = 6) :
    ∃ ysL ysR, (decodeBlocks cfg s).chL.q = s.chL.q ++ ysL ∧ (decodeBlocks cfg s).chR.q = s.chR.q ++ ysR ∧
      ysL.length = outputsOf s.modeCh s.modeRate ∧ ysR.length = outputsOf s.modeCh s.modeRate ∧
      (s.modeCh = .mono → ysL = ysR) ∧ (decodeBlocks cfg s).chL.sixstep = 6 ∧ (decodeBlocks cfg s).chR.sixstep = 6 := by
  have left := decodeBlocks_decodesSector (c := .L) (.inr rfl) hL
  rw [State.chan_L, State.chan_L] at left
  obtain ⟨ysL, hqL, hlenL⟩ := left.q
  cases hm : s.modeCh with
  | mono =>
    have hchR := decodeBlocks_chR_of_mono cfg hm
    rw [hqL, List.drop_left] at hchR
    rw [hm] at hlenL
    exact ⟨ysL, ysL, hqL, by rw [hchR, ChanState.enqueue_q], hlenL, hlenL, fun _ => rfl, left.sixstep,
      by rw [hchR, ChanState.enqueue_sixstep, hR]⟩
  | stereo =>
    have right := decodeBlocks_decodesSector (c := .R) (.inl hm) hR
    rw [State.chan_R, State.chan_R] at right
    obtain ⟨ysR, hqR, hlenR⟩ := right.q
    rw [hm] at hlenL hlenR
    exact ⟨ysL, ysR, hqL, hqR, hlenL, hlenR, nofun, left.sixstep, right.sixstep⟩

/-- Whatever decodes a sector under the modes given answers the outputs of R97. -/
theorem answersDecoded_of_exec {i : Instr} {ch : ChMode} {rate : Rate} {s : State}
    (h : exec i s = decodeSector cfg ch rate s) (hL : s.chL.sixstep = 6) (hR : s.chR.sixstep = 6) :
    AnswersDecoded i ch rate s := by
  obtain ⟨ysL, ysR, hqL, hqR, hlenL, hlenR, hmono, hsixL, hsixR⟩ :=
    decodeBlocks_outputs (s := s.setModes ch rate) hL hR
  have frame := decodeBlocks_onlyChannels cfg (s.setModes ch rate)
  rw [State.setModes_chL] at hqL
  have hanswer : (decodeBlocks cfg (s.setModes ch rate)).chL.q.length - s.chL.q.length = outputsOf ch rate := by
    rw [hqL, List.length_append, Nat.add_sub_cancel_left, hlenL, State.setModes_modeCh, State.setModes_modeRate]
  refine ⟨_, ysL, ysR, h.trans (decodeSector_next rfl ch rate s), ?_⟩
  rw [hanswer, decodeBlocks_post_results]
  simp only [State.post_chL, State.post_chR, State.post_modeCh, State.post_modeRate, State.post_mute, State.post_port,
    State.post_pending]
  exact ⟨hqL, hqR, hlenL, hlenR, hmono, hsixL, hsixR, frame.modeCh, frame.modeRate, frame.mute, frame.port, frame.pending,
    trivial⟩

/-- Settles O23: a supported coding-info byte makes `XA.DECODE` the decoding of a sector. -/
theorem xaDecodeAnswersItsOutputs : Obligations.XaDecodeAnswersItsOutputs :=
  fun s _ _ h => answersDecoded_of_exec (decodeWithCoding_of_some cfg h s)

/-- Settles O24: each row is the decoding of a sector under its modes, and bits 7 and 6 do not change the item's. -/
theorem codingInfoRowsAnswerTheirOutputs : Obligations.CodingInfoRowsAnswerTheirOutputs := by
  intro s xe x e hL hR
  have item (rr cc : BitVec 2) {ch : ChMode} {rate : Rate} (h : codingModes (codingInfoByte 0 0 0 rr cc) = some (ch, rate)) :
      AnswersDecoded (.codingInfo x e 0 rr cc) ch rate s :=
    answersDecoded_of_exec
      (decodeWithCoding_of_some cfg ((codingModes_codingInfoByte_highBits x e 0 rr cc 0 0).trans h) s) hL hR
  exact ⟨answersDecoded_of_exec rfl hL hR, answersDecoded_of_exec rfl hL hR, answersDecoded_of_exec rfl hL hR,
    answersDecoded_of_exec rfl hL hR, item 0 0 (by decide), item 0 1 (by decide), item 1 0 (by decide),
    item 1 1 (by decide)⟩

/-! ### A finite queue capacity -/

/-- Decoding the blocks does not look at the capacity: only the end of the operation does (R112). -/
theorem decodeBlocks_queueCap (C : Cfg) (cap : Option Nat) (s : State) :
    decodeBlocks { C with queueCap := cap } s = decodeBlocks C s := rfl

/-- Under a configuration that differs from the default in its capacity a sector is decoded as under the default, or
refused. -/
theorem decodeSector_of_queueCap {C : Cfg} {cap : Nat} (hcap : C.queueCap = some cap)
    (hblocks : ∀ s, decodeBlocks C s = decodeBlocks cfg s) (ch : ChMode) (rate : Rate) (s : State) :
    decodeSector C ch rate s =
      if queuesWithin cap (decodeBlocks cfg (s.setModes ch rate)) then decodeSector cfg ch rate s
      else .refused .queueCapExceeded := by
  rw [decodeSector_next (C := cfg) rfl, decodeSector, hcap, hblocks]

theorem queuesWithin_iff {cap : Nat} {s : State} :
    queuesWithin cap s = true ↔ s.chL.q.length ≤ cap ∧ s.chR.q.length ≤ cap := by
  simp [queuesWithin]

/-- Settles O58: `decodeSector_of_queueCap`, the length of the queues by `decodeBlocks_outputs`. -/
theorem finiteQueueCapRefuses : Obligations.FiniteQueueCapRefuses := by
  intro cap s ch rate hm hL hR
  obtain ⟨ysL, ysR, hqL, hqR, hlenL, hlenR, -, -, -⟩ := decodeBlocks_outputs (s := s.setModes ch rate) hL hR
  have hwithin : queuesWithin cap (decodeBlocks cfg (s.setModes ch rate)) = true ↔
      s.chL.q.length + outputsOf ch rate ≤ cap ∧ s.chR.q.length + outputsOf ch rate ≤ cap := by
    rw [queuesWithin_iff, hqL, hqR, List.length_append, List.length_append, hlenL, hlenR]
    rfl
  have hcapped : execOf { cfg with queueCap := some cap } .xaDecode s = _ :=
    (decodeWithCoding_of_some _ hm s).trans (decodeSector_of_queueCap rfl (decodeBlocks_queueCap cfg _) ch rate s)
  rw [hcapped, exec_xaDecode, decodeWithCoding_of_some cfg hm]
  exact ⟨fun hle => if_pos (hwithin.mpr hle), fun hnot => if_neg (mt hwithin.mp hnot)⟩

end Sys2Proof.Machine
end

section
/-! PROOFS. 10_state.md, sections 1 to 4: what every instruction and item leaves unchanged
(`OnlyTheirWritersChangeFlagAndModes`, `NoInstructionWritesTheSector`, `OnlyXaOperationsChangeChannels`), and the two
invariants (`EveryInstructionKeepsChannelsWf`, `StepKeepsInvariantsBetweenOperations`). The next states an instruction can
have are listed once, in `NextOf`; each statement is a short case analysis of it. -/

namespace Sys2Proof.Machine

/-! ### The next states of every instruction -/

/-- The items whose byte is a coding-info byte, and the operation that reads it (R52, R54). -/
def WritesModes (i : Instr) : Prop := i = .xaDecode ∨ slotOf i = .codingInfo ∨ slotOf i = .codingInfoVariant

/-- The next states an instruction or item can answer, by what it does to the state. -/
inductive NextOf (s : State) : Instr → State → Prop where
  /-- A check, or an unsupported coding-info byte: one result and nothing else. -/
  | posts (i : Instr) (v : OpResult) : NextOf s i (s.post v)
  | clears : NextOf s .xaClear ((clearPlayback cfg s).post .done)
  | pops : NextOf s .xaPop (popPair s)
  | setsMute (i : Instr) (v : Bool) (h : i = .xaMute ∨ i = .xaDemute) : NextOf s i ((s.setMute v).post .done)
  | decodesSector (i : Instr) (ch : ChMode) (rate : Rate) (n : Nat) (h : WritesModes i) :
      NextOf s i ((decodeBlocks cfg (s.setModes ch rate)).post (.decoded n))
  | decodesSubBlock (i : Instr) (c : Chan) (blk b : Nat) (filter raw : Nibble) (h : i.isOperation = false) :
      NextOf s i (decodeSamples cfg c blk b filter raw s)
  | decodesSample (i : Instr) (c : Chan) (filter raw n : Nibble) (h : i.isOperation = false) :
      NextOf s i (decodeSample cfg c filter raw n s)

theorem nextOf_of_decodeWithCoding {i : Instr} (hi : WritesModes i) {ci : Byte} {s t : State}
    (h : decodeWithCoding cfg ci s = .next t) : NextOf s i t := by
  rcases hm : codingModes ci with _ | ⟨ch, rate⟩
  · cases (decodeWithCoding_of_none cfg hm s).symm.trans h
    exact .posts i _
  · obtain rfl := Host.Outcome.next.inj ((decodeWithCoding_next hm s).symm.trans h)
    exact .decodesSector i ch rate _ hi

theorem nextOf_of_subBlockItem {i : Instr} (hi : i.isOperation = false) {blk b : Nat} {filter raw : Nibble} {s t : State}
    (h : subBlockItem cfg blk b filter raw s = .next t) : NextOf s i t := by
  obtain ⟨-, e⟩ | ⟨-, e⟩ := subBlockItem_cases cfg blk b filter raw s
  all_goals cases e.symm.trans h
  exact .decodesSubBlock i _ blk b filter raw hi

theorem exec_submode (hi : BitVec 2) (form : Form) (lo : BitVec 5) (s : State) :
    exec (.submode hi form lo) s = .next (s.post (checkResult cfg (mode2Window form) s.port)) :=
  congrArg _ (checkWindow_eq_post cfg (mode2Window form) s)

theorem nextOf_of_exec {i : Instr} {s t : State} (h : exec i s = .next t) : NextOf s i t := by
  by_cases hi : slotOf i = .codingInfo ∨ slotOf i = .codingInfoVariant
  · exact nextOf_of_decodeWithCoding (.inr hi) ((exec_codingItem hi s).symm.trans h)
  cases i with
  | xaClear => cases h; exact .clears
  | xaDecode => exact nextOf_of_decodeWithCoding (.inl rfl) h
  | xaPop => cases h; exact .pops
  | xaMute => cases h; exact .setsMute _ true (.inl rfl)
  | xaDemute => cases h; exact .setsMute _ false (.inr rfl)
  | edcCheckMode1 => cases (exec_edcCheckMode1 s).symm.trans h; exact .posts _ _
  | edcCheckMode2 => cases (exec_edcCheckMode2 s).symm.trans h; exact .posts _ _
  | edcCheckAudio => cases h; exact .posts _ _
  | submode x form lo => cases (exec_submode x form lo s).symm.trans h; exact .posts _ _
  | codingInfo | codingInfoMono37800 | codingInfoStereo37800 | codingInfoMono18900 | codingInfoStereo18900 =>
    simp [slotOf] at hi
  | soundParam | soundParamFilter0 | soundParamFilter1 | soundParamFilter2 | soundParamFilter3 =>
    exact nextOf_of_subBlockItem rfl h
  | nibble b filter raw n => cases h; exact .decodesSample _ _ filter raw n rfl

/-! ### The frame of every instruction -/

/-- A pop writes the channels and answers one result. -/
theorem popPair_frame (s : State) :
    ∃ v, (popPair s).results = s.results ++ [v] ∧ (popPair s).mute = s.mute ∧ (popPair s).modeCh = s.modeCh ∧
      (popPair s).modeRate = s.modeRate ∧ (popPair s).port = s.port ∧ (popPair s).pending = s.pending := by
  rw [popPair_eq]
  exact ⟨_, rfl, rfl, rfl, rfl, rfl, rfl⟩

/-- Settles O51: of the cases of `NextOf` only `setsMute` writes the flag, and only `decodesSector` the modes. -/
theorem onlyTheirWritersChangeFlagAndModes : Obligations.OnlyTheirWritersChangeFlagAndModes := by
  intro i s t h
  cases nextOf_of_exec h with
  | posts | clears => exact ⟨fun _ _ => rfl, fun _ _ _ => ⟨rfl, rfl⟩⟩
  | pops =>
    obtain ⟨-, -, hmute, hch, hrate, -⟩ := popPair_frame s
    exact ⟨fun _ _ => hmute, fun _ _ _ => ⟨hch, hrate⟩⟩
  | setsMute _ v hi => exact ⟨fun h1 h2 => (hi.elim h1 h2).elim, fun _ _ _ => ⟨rfl, rfl⟩⟩
  | decodesSector _ ch rate n hi =>
    refine ⟨fun _ _ => ?_, fun h1 h2 h3 => (hi.elim h1 fun h => h.elim h2 h3).elim⟩
    rw [State.post_mute, (decodeBlocks_onlyChannels cfg (s.setModes ch rate)).mute, State.setModes_mute]
  | decodesSubBlock _ c blk b filter raw =>
    have frame := decodeSamples_onlyChannels cfg c blk b filter raw s
    exact ⟨fun _ _ => frame.mute, fun _ _ _ => ⟨frame.modeCh, frame.modeRate⟩⟩
  | decodesSample _ c filter raw n =>
    have frame := decodeSample_onlyChannels cfg c filter raw n s
    exact ⟨fun _ _ => frame.mute, fun _ _ _ => ⟨frame.modeCh, frame.modeRate⟩⟩

/-- The ports and the host's list are as before, and an operation has posted one result, an item at most one. -/
structure HostFrame (i : Instr) (s t : State) : Prop where
  port : t.port = s.port
  pending : t.pending = s.pending
  results : (∃ v, t.results = s.results ++ [v]) ∨ (i.isOperation = false ∧ t.results = s.results)

theorem OnlyChannels.hostFrame {i : Instr} {s t : State} (h : OnlyChannels s t) (hi : i.isOperation = false) :
    HostFrame i s t := ⟨h.port, h.pending, .inr ⟨hi, h.results⟩⟩

theorem NextOf.hostFrame {s t : State} {i : Instr} (h : NextOf s i t) : HostFrame i s t := by
  cases h with
  | posts | clears | setsMute => exact ⟨rfl, rfl, .inl ⟨_, rfl⟩⟩
  | pops =>
    obtain ⟨v, hresults, -, -, -, hport, hpending⟩ := popPair_frame s
    exact ⟨hport, hpending, .inl ⟨v, hresults⟩⟩
  | decodesSector _ ch rate n =>
    have frame := decodeBlocks_onlyChannels cfg (s.setModes ch rate)
    exact ⟨(State.post_port ..).trans frame.port, (State.post_pending ..).trans frame.pending,
      .inl ⟨_, decodeBlocks_post_results ch rate s _⟩⟩
  | decodesSubBlock _ c blk b filter raw hi => exact (decodeSamples_onlyChannels ..).hostFrame hi
  | decodesSample _ c filter raw n hi => exact (decodeSample_onlyChannels ..).hostFrame hi

/-- Settles O52: the sector is part of the ports, which `NextOf.hostFrame` says are as before. -/
theorem noInstructionWritesTheSector : Obligations.NoInstructionWritesTheSector := by
  intro i s t h
  obtain ⟨hport, hpending, hresults⟩ := (nextOf_of_exec h).hostFrame
  exact ⟨fun a => by rw [hport], hport, hpending, hresults⟩

/-- The instructions that mute or check answer one result on a state with the same channels. -/
theorem exec_keeps_channels {i : Instr} (h : i ∈ [.xaMute, .xaDemute, .edcCheckMode1, .edcCheckMode2, .edcCheckAudio] ∨
    slotOf i = .submode) (s : State) : ∃ u, exec i s = .next u ∧ u.chL = s.chL ∧ u.chR = s.chR := by
  cases i with
  | xaMute => exact ⟨_, exec_xaMute s, rfl, rfl⟩
  | xaDemute => exact ⟨_, exec_xaDemute s, rfl, rfl⟩
  | edcCheckMode1 => exact ⟨_, exec_edcCheckMode1 s, rfl, rfl⟩
  | edcCheckMode2 => exact ⟨_, exec_edcCheckMode2 s, rfl, rfl⟩
  | edcCheckAudio => exact ⟨_, exec_edcCheckAudio s, rfl, rfl⟩
  | submode hi form lo => exact ⟨_, exec_submode hi form lo s, rfl, rfl⟩
  | _ => simp [slotOf] at h

/-- Settles O53: a pop only shortens the queues, and `exec_keeps_channels` for the rest. -/
theorem onlyXaOperationsChangeChannels : Obligations.OnlyXaOperationsChangeChannels := by
  refine ⟨fun s t h => ?_, fun i s t hi h => ?_⟩
  · rw [exec_xaPop, popPair_eq] at h
    cases h
    exact ⟨⟨rfl, rfl, rfl, rfl, rfl⟩, ⟨rfl, rfl, rfl, rfl, rfl⟩⟩
  · obtain ⟨u, hu, hL, hR⟩ := exec_keeps_channels hi s
    cases hu.symm.trans h
    exact ⟨hL, hR⟩

/-! ### Rings, cursors and counters inside an operation -/

theorem ChanState.Wf.of_eq {x y : ChanState} (h : x.Wf) (hring : y.ring = x.ring) (hp : y.p = x.p)
    (hsix : y.sixstep = x.sixstep) : y.Wf :=
  ⟨by rw [hring, h.ring], by rw [hp]; exact h.cursor, by rw [hsix]; exact h.counter⟩

theorem ChanState.Wf.push {x : ChanState} (h : x.Wf) (y : Sample) : (x.push cfg y).Wf := by
  obtain ⟨hring, hp, hcounter⟩ := h
  have hsix : (x.push cfg y).sixstep = if x.sixstep ≤ 1 then 6 else x.sixstep - 1 := ChanState.push_sixstep cfg y x
  have hp' : (x.push cfg y).p = (x.p + 1) % 32 := ChanState.push_p cfg y x
  refine ⟨?_, by omega, ?_⟩
  · rw [ChanState.push_ring, List.length_set, hring]
  · split at hsix <;> omega

theorem State.channelsWf_iff {s : State} : s.ChannelsWf ↔ ∀ c, (s.chan c).Wf :=
  ⟨fun h c => by cases c; exacts [h.left, h.right], fun h => ⟨h .L, h .R⟩⟩

theorem push_channelsWf (c : Chan) (y : Sample) {s : State} (h : s.ChannelsWf) : (push cfg c y s).ChannelsWf := by
  rw [State.channelsWf_iff] at h ⊢
  intro d
  by_cases hd : d = c
  · rw [hd, push_chan]
    exact (h c).push y
  · obtain ⟨ys, -, hchan⟩ := (push_onlyDecodes cfg hd y s).outputs
    rw [hchan]
    split
    · exact (h d).of_eq rfl rfl rfl
    · exact h d

theorem feed_channelsWf (c : Chan) (y : Sample) {s : State} (h : s.ChannelsWf) : (feed cfg c y s).ChannelsWf := by
  unfold feed
  split
  · exact push_channelsWf c y h
  · exact push_channelsWf c y (push_channelsWf c y h)

theorem setChan_channelsWf {s : State} (h : s.ChannelsWf) (c : Chan) {x : ChanState} (hx : x.Wf) :
    (s.setChan c x).ChannelsWf := by
  cases c
  · exact ⟨hx, h.right⟩
  · exact ⟨h.left, hx⟩

theorem decodeSample_channelsWf (c : Chan) (filter raw n : Nibble) {s : State} (h : s.ChannelsWf) :
    (decodeSample cfg c filter raw n s).ChannelsWf :=
  feed_channelsWf c _ (setChan_channelsWf h c ((State.channelsWf_iff.mp h c).of_eq rfl rfl rfl))

/-- What each round of a loop keeps, the loop keeps. -/
theorem foldl_channelsWf {α : Type} {f : State → α → State} (hf : ∀ s a, s.ChannelsWf → (f s a).ChannelsWf) (l : List α)
    {s : State} (h : s.ChannelsWf) : (l.foldl f s).ChannelsWf :=
  foldl_keeps (R := fun s t => s.ChannelsWf → t.ChannelsWf) (fun _ => id) (fun _ _ _ hst htu => htu ∘ hst) f hf l s h

theorem decodeSamples_channelsWf (c : Chan) (blk b : Nat) (filter raw : Nibble) {s : State} (h : s.ChannelsWf) :
    (decodeSamples cfg c blk b filter raw s).ChannelsWf :=
  foldl_channelsWf (fun _ _ => decodeSample_channelsWf c filter raw _) _ h

theorem decodeBlocks_channelsWf {s : State} (h : s.ChannelsWf) : (decodeBlocks cfg s).ChannelsWf :=
  foldl_channelsWf (fun _ blk => foldl_channelsWf (fun _ b => decodeSamples_channelsWf _ blk b _ _) _) _ h

theorem State.ChannelsWf.post {s : State} (h : s.ChannelsWf) (v : OpResult) : (s.post v).ChannelsWf :=
  ⟨h.left, h.right⟩

theorem ChanState.cleared_wf : (ChanState.cleared cfg).Wf := ⟨by decide, by decide, by decide⟩

/-- Settles O50: every case of `NextOf` keeps the channels well formed, the decoding ones because each push does. -/
theorem everyInstructionKeepsChannelsWf : Obligations.EveryInstructionKeepsChannelsWf := by
  intro i s t h hs
  cases nextOf_of_exec hs with
  | posts | setsMute => exact ⟨h.left, h.right⟩
  | clears => exact ⟨ChanState.cleared_wf, ChanState.cleared_wf⟩
  | pops =>
    rw [popPair_eq]
    exact ⟨h.left.of_eq rfl rfl rfl, h.right.of_eq rfl rfl rfl⟩
  | decodesSector _ ch rate n =>
    exact (decodeBlocks_channelsWf (s := s.setModes ch rate) ⟨h.left, h.right⟩).post _
  | decodesSubBlock _ c blk b filter raw => exact decodeSamples_channelsWf c blk b filter raw h
  | decodesSample _ c filter raw n => exact decodeSample_channelsWf c filter raw n h

end Sys2Proof.Machine
end

section
/-! PROOFS. 10_state.md, section 4, R27: the invariants between operations (`StepKeepsInvariantsBetweenOperations`,
`ResetMeetsInvariantsBetweenOperations`). What an operation does to the ports and the host's list is `NextOf.hostFrame`; the
rest of the invariant speaks of the channels alone, and a whole sector keeps it because its pushes are whole turns of the
counter and of the ring. -/

namespace Sys2Proof.Machine

/-- The part of the invariant that speaks of the channels (R27, items 1 to 3). -/
structure State.Resting (s : State) : Prop where
  counters : s.chL.sixstep = 6 ∧ s.chR.sixstep = 6
  queues : s.chL.q.length = s.chR.q.length
  cursors : s.chL.p = 0 ∧ s.chR.p = 0
  rings : s.chL.ring.length = 32 ∧ s.chR.ring.length = 32

theorem State.BetweenOps.resting {s : State} (h : s.BetweenOps) : s.Resting :=
  ⟨h.counters, h.queues, h.cursors, h.rings⟩

theorem State.Resting.betweenOps {s : State} (h : s.Resting) (sector : s.port.sector.wf)
    (events : ∀ e ∈ s.pending, e.wf = true) : s.BetweenOps :=
  ⟨h.counters, h.queues, h.cursors, h.rings, sector, events⟩

theorem State.Resting.post {s : State} (h : s.Resting) (v : OpResult) : (s.post v).Resting :=
  ⟨h.counters, h.queues, h.cursors, h.rings⟩

theorem clearPlayback_resting (s : State) : (clearPlayback cfg s).Resting :=
  ⟨⟨rfl, rfl⟩, rfl, ⟨rfl, rfl⟩, ⟨ChanState.cleared_wf.ring, ChanState.cleared_wf.ring⟩⟩

theorem popPair_resting {s : State} (h : s.Resting) : (popPair s).Resting := by
  rw [popPair_eq]
  refine ⟨h.counters, ?_, h.cursors, h.rings⟩
  simp [h.queues]

/-- A sector leaves the cursor and the ring's length of `R` alone in mono, and returns the cursor in stereo. -/
theorem decodeBlocks_chR_resting {s : State} (h : s.Resting) :
    (decodeBlocks cfg s).chR.p = 0 ∧ (decodeBlocks cfg s).chR.ring.length = 32 := by
  cases hm : s.modeCh with
  | mono =>
    rw [decodeBlocks_chR_of_mono cfg hm]
    exact ⟨h.cursors.2, h.rings.2⟩
  | stereo =>
    obtain ⟨-, hp, hring, -⟩ := decodeBlocks_decodesSector (c := .R) (.inl hm) h.counters.2
    rw [State.chan_R, State.chan_R] at hp hring
    have hcursor := h.cursors.2
    exact ⟨(hp (by omega)).trans hcursor, hring.trans h.rings.2⟩

theorem decodeBlocks_resting {s : State} (h : s.Resting) : (decodeBlocks cfg s).Resting := by
  obtain ⟨ysL, ysR, hqL, hqR, hlenL, hlenR, -, hsixL, hsixR⟩ := decodeBlocks_outputs h.counters.1 h.counters.2
  obtain ⟨hpR, hringR⟩ := decodeBlocks_chR_resting h
  obtain ⟨-, hpL, hringL, -⟩ := decodeBlocks_decodesSector (c := .L) (.inr rfl) h.counters.1
  rw [State.chan_L, State.chan_L] at hpL hringL
  have hcursor := h.cursors.1
  refine ⟨⟨hsixL, hsixR⟩, ?_, ⟨(hpL (by omega)).trans hcursor, hpR⟩, ⟨hringL.trans h.rings.1, hringR⟩⟩
  rw [hqL, hqR, List.length_append, List.length_append, h.queues, hlenL, hlenR]

theorem NextOf.resting {s t : State} {i : Instr} (h : NextOf s i t) (hi : i.isOperation = true) (hs : s.Resting) :
    t.Resting := by
  cases h with
  | posts _ v => exact hs.post v
  | clears => exact (clearPlayback_resting s).post .done
  | pops => exact popPair_resting hs
  | setsMute => exact ⟨hs.counters, hs.queues, hs.cursors, hs.rings⟩
  | decodesSector _ ch rate n =>
    exact (decodeBlocks_resting (s := s.setModes ch rate) ⟨hs.counters, hs.queues, hs.cursors, hs.rings⟩).post _
  | decodesSubBlock _ _ _ _ _ _ hitem => exact absurd hi (by simp [hitem])
  | decodesSample _ _ _ _ _ hitem => exact absurd hi (by simp [hitem])

/-- Every operation of the command port keeps the invariant. -/
theorem exec_betweenOps {i : Instr} (hi : i.isOperation = true) {s t : State} (hs : s.BetweenOps)
    (h : exec i s = .next t) : t.BetweenOps := by
  have next := nextOf_of_exec h
  obtain ⟨hport, hpending, -⟩ := next.hostFrame
  exact (next.resting hi hs.resting).betweenOps (by rw [hport]; exact hs.sector) (by rw [hpending]; exact hs.events)

/-- Accepting an operation puts a canonical sector on the port, because the host's events are canonical. -/
theorem State.BetweenOps.accept {s : State} (h : s.BetweenOps) {r : Request} {rest : List HostEvent}
    (hp : s.pending = .issue r :: rest) : (s.accept r rest).BetweenOps := by
  have hevents : ∀ e ∈ HostEvent.issue r :: rest, e.wf = true := hp ▸ h.events
  exact ⟨h.counters, h.queues, h.cursors, h.rings, of_decide_eq_true (hevents _ List.mem_cons_self),
    fun e he => hevents e (List.mem_cons_of_mem _ he)⟩

theorem reset_betweenOps {rest : List HostEvent} (h : ∀ e ∈ rest, e.wf = true) (results : List OpResult) :
    ({ State.reset with pending := rest, results := results } : State).BetweenOps :=
  ⟨⟨rfl, rfl⟩, rfl, ⟨rfl, rfl⟩, ⟨ChanState.cleared_wf.ring, ChanState.cleared_wf.ring⟩, State.reset_sector_wf, h⟩

/-- Settles O49: the reset state with nothing pending. -/
theorem resetMeetsInvariantsBetweenOperations : Obligations.ResetMeetsInvariantsBetweenOperations :=
  reset_betweenOps (rest := []) (by simp) []

/-- Settles O48: the four cases of a step. -/
theorem stepKeepsInvariantsBetweenOperations : Obligations.StepKeepsInvariantsBetweenOperations := by
  intro s t hs h
  obtain ⟨-, e⟩ | ⟨rest, hp, e⟩ | ⟨r, rest, i, hp, hd, e⟩ | ⟨r, rest, _, hp, -, e⟩ := step_cases s
  · cases e.symm.trans h
    exact hs
  · cases e.symm.trans h
    exact reset_betweenOps (fun x hx => hs.events x (hp ▸ List.mem_cons_of_mem _ hx)) s.results
  · exact exec_betweenOps (decodeCmd_isOperation hd) (hs.accept hp) (e.symm.trans h)
  · cases e.symm.trans h
    have accepted := hs.accept hp
    exact (accepted.resting.post _).betweenOps accepted.sector accepted.events

end Sys2Proof.Machine
end

section
/-! PROOFS. 10_state.md, section 2, and 00_scope.md, section 5: what a step runs (`StepRunsDecodedOperation`,
`IdleStepKeepsState`), that every step ends (`EveryOperationEndsWithAResult`), and the machine of any configuration
(`ConfigurationIsAnArgument`, `ResetFollowsTheConfiguration`). -/

namespace Sys2Proof.Machine

/-- A legal command word runs its operation on the accepted operands, under any configuration and meaning. -/
theorem stepBy_of_legal (C : Cfg) (run : Instr → State → Host.Outcome State Fault Refusal) {s : State} {r : Request}
    {rest : List HostEvent} {i : Instr} (hp : s.pending = .issue r :: rest) (hd : decodeCmd r.cmd = .ok i) :
    stepBy C run s = run i (s.accept r rest) := by
  obtain ⟨h, -⟩ | ⟨_, h, -⟩ | ⟨_, _, j, h, hj, e⟩ | ⟨_, _, _, h, herr, -⟩ := stepBy_cases C run s
  all_goals cases hp.symm.trans h
  · cases hd.symm.trans hj
    exact e
  · cases hd.symm.trans herr

/-- Settles O5: `stepBy_of_legal` under the default configuration. -/
theorem stepRunsDecodedOperation : Obligations.StepRunsDecodedOperation :=
  fun _ _ _ _ => stepBy_of_legal cfg exec

theorem step_of_idle {s : State} (hp : s.pending = []) : step s = .next s := by
  obtain ⟨-, e⟩ | ⟨_, h, -⟩ | ⟨_, _, _, h, -⟩ | ⟨_, _, _, h, -⟩ := step_cases s
  · exact e
  all_goals cases hp.symm.trans h

/-- Settles O8: the idle case of `step_cases`. -/
theorem idleStepKeepsState : Obligations.IdleStepKeepsState := fun _ => step_of_idle

/-- Settles O47: an issued operation posts one result (`step_issue_posts`); a reset and an idle step answer a state too. -/
theorem everyOperationEndsWithAResult : Obligations.EveryOperationEndsWithAResult := by
  intro s
  rcases hp : s.pending with _ | ⟨r | _, rest⟩
  · exact ⟨s, step_of_idle hp, nofun⟩
  · obtain ⟨u, v, hstep, hpending, hresults, -⟩ := step_issue_posts hp
    refine ⟨u.post v, hstep, fun r' rest' h => ?_⟩
    cases h
    exact ⟨hpending, v, by rw [State.post_results, hresults]⟩
  · exact ⟨_, step_of_pending_reset hp, nofun⟩

/-- Settles O56: `stepBy_of_legal` for every record, and `exec_eq_execOf` for the default one. -/
theorem configurationIsAnArgument : Obligations.ConfigurationIsAnArgument := by
  refine ⟨fun C _ _ _ _ => stepBy_of_legal C (execOf C), exec_eq_execOf, fun s => ?_, rfl⟩
  rw [step, stepOf, show exec = execOf cfg from funext₂ exec_eq_execOf]

theorem stepOf_of_pending_reset (C : Cfg) {s : State} {rest : List HostEvent} (hp : s.pending = .reset :: rest) :
    stepOf C s = .next { State.resetOf C with pending := rest, results := s.results } := by
  obtain ⟨h, -⟩ | ⟨_, h, e⟩ | ⟨_, _, _, h, -⟩ | ⟨_, _, _, h, -⟩ := stepBy_cases C (execOf C) s
  all_goals cases hp.symm.trans h
  exact e

/-- Settles O57: reset and `XA.CLEAR` put both channels at `ChanState.cleared` of the record. -/
theorem resetFollowsTheConfiguration : Obligations.ResetFollowsTheConfiguration :=
  fun C => ⟨⟨rfl, rfl, rfl⟩, fun _ _ hp => ⟨_, stepOf_of_pending_reset C hp, rfl, rfl, rfl, rfl, rfl⟩, fun _ => rfl⟩

end Sys2Proof.Machine
end

section
/-! PROOFS. 40_edc.md, section 3: the checksum as arithmetic on words (`ChecksumTableFormAgrees`). A step of the register is
linear, so eight steps of a word are eight steps of its low byte, which is the table's entry, and a shift of the rest. Under
the default polynomial, whose top bit is set, a step is injective as well. -/

namespace Sys2Proof.Machine

/-! ### One bit -/

theorem crcBit_of_even {C : Cfg} {v : Word} (h : v.getLsbD 0 = false) : crcBit C v = v >>> 1 := by
  rw [crcBit, h, if_neg Bool.false_ne_true]

theorem crcBit_of_odd {C : Cfg} {v : Word} (h : v.getLsbD 0 = true) : crcBit C v = (v >>> 1) ^^^ C.edcPoly := by
  rw [crcBit, h, if_pos rfl]

/-- A step is linear (R76). -/
theorem crcBit_xor (C : Cfg) (u v : Word) : crcBit C (u ^^^ v) = crcBit C u ^^^ crcBit C v := by
  have hbit : (u ^^^ v).getLsbD 0 = (u.getLsbD 0 ^^ v.getLsbD 0) := BitVec.getLsbD_xor
  cases hu : u.getLsbD 0 <;> cases hv : v.getLsbD 0 <;> rw [hu, hv] at hbit
  · rw [crcBit_of_even hbit, crcBit_of_even hu, crcBit_of_even hv, BitVec.ushiftRight_xor_distrib]
  · rw [crcBit_of_odd hbit, crcBit_of_even hu, crcBit_of_odd hv, BitVec.ushiftRight_xor_distrib, BitVec.xor_assoc]
  · rw [crcBit_of_odd hbit, crcBit_of_odd hu, crcBit_of_even hv, BitVec.ushiftRight_xor_distrib]
    ac_rfl
  · rw [crcBit_of_even hbit, crcBit_of_odd hu, crcBit_of_odd hv, BitVec.ushiftRight_xor_distrib]
    rw [show u >>> 1 ^^^ C.edcPoly ^^^ (v >>> 1 ^^^ C.edcPoly) = u >>> 1 ^^^ v >>> 1 ^^^ (C.edcPoly ^^^ C.edcPoly) by ac_rfl,
      BitVec.xor_self, BitVec.xor_zero]

theorem crcBits8_xor (C : Cfg) (u v : Word) : crcBits8 C (u ^^^ v) = crcBits8 C u ^^^ crcBits8 C v := by
  simp only [crcBits8, crcBit_xor]

/-! ### The table form -/

theorem crcBits8_of_low_zero (C : Cfg) {v : Word} (h : v.extractLsb' 0 8 = 0) : crcBits8 C v = v >>> 8 := by
  have hbit (k : Nat) (hk : k < 8) : (v >>> k).getLsbD 0 = false := by
    have hk0 := congrArg (fun x => x.getLsbD k) h
    simpa [hk] using hk0
  have hstep (k : Nat) (hk : k < 8) : crcBit C (v >>> k) = v >>> (k + 1) := by
    rw [crcBit_of_even (hbit k hk), BitVec.shiftRight_add]
  have h0 : crcBit C v = v >>> 1 := hstep 0 (by decide)
  simp only [crcBits8, h0, hstep, Nat.reduceAdd, Nat.reduceLT]

/-- A word is its low byte and the rest. -/
theorem xor_low_byte (v : Word) : (v ^^^ (v.extractLsb' 0 8).setWidth 32) ^^^ (v.extractLsb' 0 8).setWidth 32 = v := by
  rw [BitVec.xor_assoc, BitVec.xor_self, BitVec.xor_zero]

theorem crcBits8_eq_table (C : Cfg) (v : Word) : crcBits8 C v = (v >>> 8) ^^^ crcTable C (v.extractLsb' 0 8) := by
  have hlow : (v ^^^ (v.extractLsb' 0 8).setWidth 32).extractLsb' 0 8 = 0 := by
    ext i hi
    simp [hi, show i < 32 by omega]
  have hshift : (v ^^^ (v.extractLsb' 0 8).setWidth 32) >>> 8 = v >>> 8 := by
    ext i hi
    simp
  conv_lhs => rw [← xor_low_byte v]
  rw [crcBits8_xor, crcBits8_of_low_zero C hlow, hshift, crcTable]

theorem crcByte_eq_table (C : Cfg) (crc : Word) (x : Byte) : crcByte C crc x = crcTableByte C crc x := by
  have hshift : (crc ^^^ x.setWidth 32) >>> 8 = crc >>> 8 := by
    ext i hi
    simp
  rw [crcByte, crcBits8_eq_table, hshift, crcTableByte]

/-- Settles O15: the two forms agree byte by byte. -/
theorem checksumTableFormAgrees : Obligations.ChecksumTableFormAgrees := by
  refine ⟨fun C bytes => ?_, by decide, by decide, by decide, by decide, by decide, by decide⟩
  rw [edcByTable, edc, show crcTableByte C = crcByte C from (funext₂ (crcByte_eq_table C)).symm]

/-! ### A byte is injective under the default polynomial -/

theorem crcBit_eq_zero {v : Word} (h : crcBit cfg v = 0) : v = 0 := by
  cases hv : v.getLsbD 0 with
  | true =>
    rw [crcBit_of_odd hv] at h
    have htop := congrArg (fun x => x.getLsbD 31) h
    simp [cfg] at htop
  | false =>
    rw [crcBit_of_even hv] at h
    have hnat : v.toNat / 2 = 0 := by
      have := congrArg BitVec.toNat h
      rwa [BitVec.toNat_ushiftRight, Nat.shiftRight_eq_div_pow] at this
    have hpar : v.toNat % 2 = 0 := by
      simpa [BitVec.getLsbD, Nat.testBit_zero] using hv
    exact BitVec.eq_of_toNat_eq (show v.toNat = 0 by omega)

theorem crcBit_injective : Function.Injective (crcBit cfg) := by
  intro u v h
  rw [← BitVec.xor_eq_zero_iff]
  exact crcBit_eq_zero (by rw [crcBit_xor, h, BitVec.xor_self]; rfl)

theorem crcBits8_injective : Function.Injective (crcBits8 cfg) := by
  intro u v h
  simpa only [crcBits8, crcBit_injective.eq_iff] using h

theorem crcByte_inj_left {crc crc' : Word} {x : Byte} : crcByte cfg crc x = crcByte cfg crc' x ↔ crc = crc' := by
  rw [crcByte, crcByte, crcBits8_injective.eq_iff, BitVec.xor_left_inj]

theorem crcByte_inj_right {crc : Word} {x y : Byte} : crcByte cfg crc x = crcByte cfg crc y ↔ x = y := by
  rw [crcByte, crcByte, crcBits8_injective.eq_iff, BitVec.xor_right_inj]
  refine ⟨fun h => ?_, congrArg _⟩
  have hlow := congrArg (fun z => z.setWidth 8) h
  simpa using hlow

theorem foldl_crcByte_inj (xs : List Byte) {crc crc' : Word} :
    xs.foldl (crcByte cfg) crc = xs.foldl (crcByte cfg) crc' ↔ crc = crc' := by
  induction xs generalizing crc crc' with
  | nil => rfl
  | cons x xs ih => rw [List.foldl_cons, List.foldl_cons, ih, crcByte_inj_left]

/-- Changing one byte changes the checksum: the inference of 40_edc.md section 5. -/
theorem edc_ne_of_byte_ne (xs ys : List Byte) {x y : Byte} (h : x ≠ y) :
    edc cfg (xs ++ x :: ys) ≠ edc cfg (xs ++ y :: ys) := by
  rw [edc_append, edc_append, ne_eq, BitVec.xor_left_inj, List.foldl_cons, List.foldl_cons, foldl_crcByte_inj,
    crcByte_inj_right]
  exact h

/-! ### Running the checksum on through its own bytes -/

theorem crcByte_low_byte (C : Cfg) (crc : Word) : crcByte C crc (crc.extractLsb' 0 8) = crc >>> 8 := by
  have hzero : crcTable C 0 = 0 := crcBits8_of_low_zero C (by decide)
  have hlow : (crc ^^^ (crc.extractLsb' 0 8).setWidth 32).extractLsb' 0 8 = 0 := by
    ext i hi
    simp [hi, show i < 32 by omega]
  rw [crcByte_eq_table, crcTableByte, hlow, hzero]
  exact BitVec.xor_zero

/-- Four bytes take a register out, least significant byte first (R78). -/
theorem foldl_crcByte_own_bytes (C : Cfg) (crc : Word) :
    [crc.extractLsb' 0 8, crc.extractLsb' 8 8, crc.extractLsb' 16 8, crc.extractLsb' 24 8].foldl (crcByte C) crc = 0 := by
  have hstep (k : Nat) : crcByte C (crc >>> k) (crc.extractLsb' k 8) = crc >>> (k + 8) := by
    have hbyte : crc.extractLsb' k 8 = (crc >>> k).extractLsb' 0 8 := by
      ext i hi
      simp
    rw [hbyte, crcByte_low_byte, BitVec.shiftRight_add]
  have h0 : crcByte C crc (crc.extractLsb' 0 8) = crc >>> 8 := crcByte_low_byte C crc
  simp only [List.foldl_cons, List.foldl_nil, h0, hstep]
  exact BitVec.ushiftRight_eq_zero le_rfl

end Sys2Proof.Machine
end

section
/-! PROOFS. 40_edc.md, sections 2 to 5: the four-byte field (`ChecksumThroughItsFieldIsZero`), what a changed byte does to a
`Valid` sector (`WindowByteChangeGivesMismatch`, `ByteOutsideWindowKeepsValid`, `ChecksumFieldByteChange`), the submode byte
(`SubmodeByteSelectsTheCheck`) and independence (`EdcCheckIndependentOfUnitXa`). Every `EDC.CHECK` posts `edcResult` of its
ports, so each statement is about `checkResult` of two sectors. -/

namespace Sys2Proof.Machine

/-! ### `EDC.CHECK` from its ports -/

/-- The result of `EDC.CHECK` under a mode operand: of the window's check, or `Skipped` where nothing is checked (R70, R80). -/
def edcResult (tm : TrackMode) (p : Request) : OpResult :=
  match checkedWindow cfg tm p.sector with
  | some w => checkResult cfg w p
  | none => .skipped

theorem edcResult_of_window {tm : TrackMode} {p : Request} {w : Window} (h : checkedWindow cfg tm p.sector = some w) :
    edcResult tm p = checkResult cfg w p := by
  rw [edcResult, h]

theorem exec_edcCheckOf (tm : TrackMode) (s : State) : exec (edcCheckOf tm) s = .next (s.post (edcResult tm s.port)) := by
  cases tm with
  | mode1 => exact exec_edcCheckMode1 s
  | mode2 => exact exec_edcCheckMode2 s
  | audio => exact exec_edcCheckAudio s

/-- Settles O20: the result is `edcResult` of the ports, which the two states share. -/
theorem edcCheckIndependentOfUnitXa : Obligations.EdcCheckIndependentOfUnitXa :=
  fun tm s t hport => ⟨edcResult tm s.port, exec_edcCheckOf tm s, by rw [hport]; exact exec_edcCheckOf tm t⟩

/-- Settles O14: the item of the sector's submode byte is the check of the form it selects, and either form's check is
`checkResult` of its window. -/
theorem submodeByteSelectsTheCheck : Obligations.SubmodeByteSelectsTheCheck := by
  refine ⟨fun s => rfl, fun x s => ⟨_, exec_submode _ _ _ s, ?_⟩⟩
  rw [formOfBit_extractLsb']
  split
  · exact checkResult_of_skipZero cfg rfl s.port
  · exact checkResult_of_noSkip cfg rfl s.port

/-! ### What `Valid` says -/

theorem checkResult_eq_valid_iff {C : Cfg} {w : Window} {p : Request} : checkResult C w p = .valid ↔
    ¬(w.skipZero = true ∧ p.sector.read32 w.field = 0) ∧ windowEdc C p.sector w = p.sector.read32 w.field := by
  unfold checkResult
  split_ifs <;> simp_all

theorem checkResult_eq_mismatch {C : Cfg} {w : Window} {p : Request}
    (hskip : ¬(w.skipZero = true ∧ p.sector.read32 w.field = 0))
    (hne : windowEdc C p.sector w ≠ p.sector.read32 w.field) :
    checkResult C w p = .error (.edcMismatch p.track p.sectorNo (p.sector.read32 w.field) (windowEdc C p.sector w)) := by
  rw [checkResult, if_neg hskip, if_neg hne]

theorem State.post_injective {s : State} {v v' : OpResult} (h : s.post v = s.post v') : v = v' :=
  List.singleton_inj.mp (List.append_cancel_left (congrArg State.results h))

theorem checkResult_of_exec_valid {tm : TrackMode} {s : State} {w : Window}
    (hw : checkedWindow cfg tm s.port.sector = some w) (h : exec (edcCheckOf tm) s = .next (s.post .valid)) :
    checkResult cfg w s.port = .valid := by
  rw [exec_edcCheckOf, edcResult_of_window hw] at h
  exact State.post_injective (Host.Outcome.next.inj h)

/-- The check of the same state with another sector whose window is `w`. -/
theorem exec_edcCheckOf_withSector {tm : TrackMode} {s : State} {m : Memory} {w : Window}
    (hw : checkedWindow cfg tm m = some w) :
    exec (edcCheckOf tm) (s.withSector m) =
      .next ((s.post (checkResult cfg w { s.port with sector := m })).withSector m) := by
  rw [exec_edcCheckOf, edcResult_of_window (p := (s.withSector m).port) hw, State.withSector_post]
  rfl

/-! ### The windows -/

/-- The layout of R71: the window, then its field, inside the sector; the zero-field skip is Form2's. -/
theorem checkedWindow_layout {tm : TrackMode} {m : Memory} {w : Window} (h : checkedWindow cfg tm m = some w) :
    w.lo ≤ w.hi ∧ w.hi = w.field ∧ w.field + 4 ≤ 2352 ∧ (w.skipZero = true ↔ w = mode2Window .form2) := by
  cases tm with
  | mode1 => cases h; decide
  | mode2 =>
    cases h
    cases sectorForm cfg m <;> decide
  | audio => cases h

/-- The window does not move unless the submode byte changes, which lies in the window of either form (R52). -/
theorem checkedWindow_congr {tm : TrackMode} {m m' : Memory} {w : Window} (h : checkedWindow cfg tm m = some w)
    (hread : w.lo ≤ 18 → 18 < w.hi → m'.read 18 = m.read 18) : checkedWindow cfg tm m' = some w := by
  cases tm with
  | mode1 => exact h
  | mode2 =>
    have hsub : m'.read 18 = m.read 18 := by
      cases h
      exact hread (by cases sectorForm cfg m <;> decide) (by cases sectorForm cfg m <;> decide)
    rw [← h]
    simp only [checkedWindow, sectorForm_cfg, hsub]
  | audio => cases h

/-! ### Bytes read from two sectors -/

theorem Memory.readBytes_congr {m m' : Memory} {a n : Nat} (h : ∀ b, a ≤ b → b < a + n → m'.read b = m.read b) :
    m'.readBytes a n = m.readBytes a n :=
  List.map_congr_left fun i hi => by
    have := List.mem_range.mp hi
    exact h (a + i) (by omega) (by omega)

theorem Memory.read32_congr {m m' : Memory} {a : Nat} (h : ∀ b, a ≤ b → b < a + 4 → m'.read b = m.read b) :
    m'.read32 a = m.read32 a := by
  simp only [Memory.read32, h a (by omega) (by omega), h (a + 1) (by omega) (by omega), h (a + 2) (by omega) (by omega),
    h (a + 3) (by omega) (by omega)]

theorem windowEdc_congr {m m' : Memory} {w : Window} (h : ∀ b, w.lo ≤ b → b < w.hi → m'.read b = m.read b) :
    windowEdc cfg m' w = windowEdc cfg m w := by
  rw [windowEdc, windowEdc, Memory.readBytes_congr fun b h1 h2 => h b h1 (by omega)]

/-- The bytes of a stored word (R33). -/
theorem Memory.extractLsb'_read32 (m : Memory) (a : Nat) :
    ∀ i < 4, (m.read32 a).extractLsb' (8 * i) 8 = m.read (a + i)
  | 0, _ => extractLsb'_append_low (m.read (a + 3) ++ m.read (a + 2)) (m.read (a + 1)) (m.read a)
  | 1, _ => extractLsb'_append_middle (m.read (a + 3) ++ m.read (a + 2)) (m.read (a + 1)) (m.read a)
  | 2, _ => (extractLsb'_append_above (m.read (a + 3) ++ m.read (a + 2)) (m.read (a + 1)) (m.read a) 0 8).trans
      BitVec.extractLsb'_append_eq_right
  | 3, _ => (extractLsb'_append_above (m.read (a + 3) ++ m.read (a + 2)) (m.read (a + 1)) (m.read a) 8 8).trans
      BitVec.extractLsb'_append_eq_left

theorem Memory.readBytes_four (m : Memory) (a : Nat) :
    m.readBytes a 4 = [(m.read32 a).extractLsb' 0 8, (m.read32 a).extractLsb' 8 8, (m.read32 a).extractLsb' 16 8,
      (m.read32 a).extractLsb' 24 8] := by
  have hbyte := Memory.extractLsb'_read32 m a
  rw [hbyte 0 (by decide), hbyte 1 (by decide), hbyte 2 (by decide), hbyte 3 (by decide)]
  rfl

/-- Settles O16: in a `Valid` sector the four bytes of the field are those of the register at the end of the window, and
`foldl_crcByte_own_bytes` takes them out of it. -/
theorem checksumThroughItsFieldIsZero : Obligations.ChecksumThroughItsFieldIsZero := by
  refine ⟨fun m a => Memory.extractLsb'_read32 m a 0 (by decide), fun tm s w hw h => ?_⟩
  obtain ⟨hle, hfield, -, -⟩ := checkedWindow_layout hw
  obtain ⟨-, hvalid⟩ := checkResult_eq_valid_iff.mp (checkResult_of_exec_valid hw h)
  have hsplit : s.port.sector.readBytes w.lo (w.field + 4 - w.lo) =
      s.port.sector.readBytes w.lo (w.hi - w.lo) ++ s.port.sector.readBytes w.field 4 := by
    rw [show w.field + 4 - w.lo = w.hi - w.lo + 4 by omega, Memory.readBytes_add, show w.lo + (w.hi - w.lo) = w.field by omega]
  have hregister : (s.port.sector.readBytes w.lo (w.hi - w.lo)).foldl (crcByte cfg) cfg.edcInit =
      s.port.sector.read32 w.field := by
    rw [← hvalid, windowEdc, edc]
    exact BitVec.xor_zero.symm
  rw [hsplit, edc_append, hregister, Memory.readBytes_four, foldl_crcByte_own_bytes]
  rfl

/-! ### One byte changed -/

theorem Memory.read_write_ne {m : Memory} (h : m.wf) {a : Nat} (ha : a < 2352) (v : Byte) {b : Nat} (hb : b ≠ a) :
    (m.write a v).read b = m.read b := by
  rw [Memory.read_write h ha, if_neg hb]

theorem Memory.read_write_same {m : Memory} (h : m.wf) {a : Nat} (ha : a < 2352) (v : Byte) :
    (m.write a v).read a = v := by
  rw [Memory.read_write h ha, if_pos rfl]

theorem readBytes_around (m : Memory) {lo a hi : Nat} (hlo : lo ≤ a) (hhi : a < hi) :
    m.readBytes lo (hi - lo) = m.readBytes lo (a - lo) ++ m.read a :: m.readBytes (a + 1) (hi - (a + 1)) := by
  have hone : m.readBytes a 1 = [m.read a] := rfl
  rw [show hi - lo = a - lo + (1 + (hi - (a + 1))) by omega, Memory.readBytes_add, Memory.readBytes_add,
    show lo + (a - lo) = a by omega, hone]
  rfl

/-- A changed byte in the window changes its checksum. -/
theorem windowEdc_write_ne {m : Memory} (h : m.wf) {w : Window} {a : Nat} (ha : a < 2352) (hlo : w.lo ≤ a)
    (hhi : a < w.hi) {v : Byte} (hv : v ≠ m.read a) : windowEdc cfg (m.write a v) w ≠ windowEdc cfg m w := by
  have hbefore : (m.write a v).readBytes w.lo (a - w.lo) = m.readBytes w.lo (a - w.lo) :=
    Memory.readBytes_congr fun b _ hb => Memory.read_write_ne h ha v (by omega)
  have hafter : (m.write a v).readBytes (a + 1) (w.hi - (a + 1)) = m.readBytes (a + 1) (w.hi - (a + 1)) :=
    Memory.readBytes_congr fun b hb _ => Memory.read_write_ne h ha v (by omega)
  rw [windowEdc, windowEdc, readBytes_around _ hlo hhi, readBytes_around m hlo hhi, hbefore, hafter,
    Memory.read_write_same h ha]
  exact edc_ne_of_byte_ne _ _ hv

/-- A changed byte in the field changes the stored value. -/
theorem read32_write_ne {m : Memory} (h : m.wf) {f a : Nat} (ha : a < 2352) (hlo : f ≤ a) (hhi : a < f + 4) {v : Byte}
    (hv : v ≠ m.read a) : (m.write a v).read32 f ≠ m.read32 f := by
  intro heq
  have hbyte (m' : Memory) : (m'.read32 f).extractLsb' (8 * (a - f)) 8 = m'.read a := by
    rw [Memory.extractLsb'_read32 m' f _ (by omega), show f + (a - f) = a by omega]
  have hread := hbyte (m.write a v)
  rw [heq, hbyte m, Memory.read_write_same h ha] at hread
  exact hv hread.symm

/-- Settles O17: the field is unchanged, and by `windowEdc_write_ne` the checksum is not. -/
theorem windowByteChangeGivesMismatch : Obligations.WindowByteChangeGivesMismatch := by
  intro tm s w a v hwf hw hvalid hlo hhi hv hw'
  obtain ⟨-, hfield, hend, -⟩ := checkedWindow_layout hw
  obtain ⟨hskip, hedc⟩ := checkResult_eq_valid_iff.mp (checkResult_of_exec_valid hw hvalid)
  have ha : a < 2352 := by omega
  have hstored : (s.port.sector.write a v).read32 w.field = s.port.sector.read32 w.field :=
    Memory.read32_congr fun b hb _ => Memory.read_write_ne hwf ha v (by omega)
  rw [exec_edcCheckOf_withSector hw', checkResult_eq_mismatch]
  · simp only [hstored]
  · simpa only [hstored] using hskip
  · simp only [hstored, ← hedc]
    exact windowEdc_write_ne hwf ha hlo hhi hv

/-- Settles O18: neither the window, nor its place, nor the field is changed. -/
theorem byteOutsideWindowKeepsValid : Obligations.ByteOutsideWindowKeepsValid := by
  intro tm s w a v hwf hw hvalid ha hwindow hfield
  have hread {b : Nat} (hb : b ≠ a) : (s.port.sector.write a v).read b = s.port.sector.read b :=
    Memory.read_write_ne hwf ha v hb
  have hstored : (s.port.sector.write a v).read32 w.field = s.port.sector.read32 w.field :=
    Memory.read32_congr fun b h1 h2 => hread (by omega)
  have hedc : windowEdc cfg (s.port.sector.write a v) w = windowEdc cfg s.port.sector w :=
    windowEdc_congr fun b h1 h2 => hread (by omega)
  have hw' : checkedWindow cfg tm (s.port.sector.write a v) = some w :=
    checkedWindow_congr hw fun h1 h2 => hread (by omega)
  have hresult : checkResult cfg w { s.port with sector := s.port.sector.write a v } = checkResult cfg w s.port := by
    simp only [checkResult, hstored, hedc]
  rw [exec_edcCheckOf_withSector hw', hresult, checkResult_of_exec_valid hw hvalid]

/-- Settles O19: the window is unchanged and the stored value is not, so the check mismatches, unless it is skipped. -/
theorem checksumFieldByteChange : Obligations.ChecksumFieldByteChange := by
  intro tm s w a v hwf hw hvalid hlo hhi hv
  obtain ⟨-, hfield, hend, hform2⟩ := checkedWindow_layout hw
  obtain ⟨-, hedc⟩ := checkResult_eq_valid_iff.mp (checkResult_of_exec_valid hw hvalid)
  have ha : a < 2352 := by omega
  have hread {b : Nat} (hb : b < w.hi) : (s.port.sector.write a v).read b = s.port.sector.read b :=
    Memory.read_write_ne hwf ha v (by omega)
  have hedc' : windowEdc cfg (s.port.sector.write a v) w = windowEdc cfg s.port.sector w :=
    windowEdc_congr fun b _ hb => hread hb
  have hw' : checkedWindow cfg tm (s.port.sector.write a v) = some w := checkedWindow_congr hw fun _ h2 => hread h2
  have hne : windowEdc cfg s.port.sector w ≠ (s.port.sector.write a v).read32 w.field := by
    rw [hedc]
    exact (read32_write_ne hwf ha hlo hhi hv).symm
  rw [exec_edcCheckOf_withSector hw']
  simp only [checkResult, hform2, hedc', if_neg hne]

end Sys2Proof.Machine
end

section
/-! PROOFS. 41_xa_decode.md, section 3: one nibble (`NibbleFollowsTheConfiguration`, `NibbleDecodesOneSample`), the bounds of
its numbers (`DecoderNumbersFitThirtyTwoBits`), and the sub-blocks (`SoundParamDecodesItsSubBlock`,
`FilterRowsSelectTheirPairs`, `SoundParamOutsideTheSectorFaults`, `XaDecodeWalksItsItems`). -/

namespace Sys2Proof.Machine

/-! ### One nibble -/

/-- The channel of a sub-block (R90, R91). -/
theorem chanOf_eq (ch : ChMode) (b : Nat) : chanOf ch b = if ch = .stereo ∧ b % 2 = 1 then .R else .L := by
  cases ch with
  | mono => rfl
  | stereo => rcases Nat.mod_two_eq_zero_or_one b with h | h <;> simp [chanOf, h]

theorem div64_eq (C : Cfg) (x : Int) : div64 C x = if C.xaDivMode = .trunc then x.tdiv 64 else x / 64 := by
  unfold div64
  cases C.xaDivMode with
  | trunc => rfl
  | floor => exact Int.fdiv_eq_ediv_of_nonneg x (by decide)

theorem decodedSample_toInt (C : Cfg) (f : Int × Int) (eff : Nat) (n : Nibble) (x : ChanState) :
    (decodedSample C f eff n x).toInt = clamp16 (sext4 n * 2 ^ eff + predict C f x) :=
  toSample_toInt _

/-- Settles O59: the item is `decodeSample`, its sample by `decodedSample_toInt` and `div64_eq`. -/
theorem nibbleFollowsTheConfiguration : Obligations.NibbleFollowsTheConfiguration := by
  intro C b filter raw n s c x num
  refine ⟨decodedSample C (C.xaFilter filter) (C.xaEffShift raw) n x, ?_, ?_⟩
  · rw [decodedSample_toInt, predict, div64_eq]
  · change Host.Outcome.next (decodeSample C (chanOf s.modeCh b) filter raw n s) = _
    rw [chanOf_eq]
    rfl

theorem xaFilter_cfg (filter : Nibble) :
    cfg.xaFilter filter = [(0, 0), (60, 0), (115, -52), (98, -55)].getD (filter.toNat % 4) (0, 0) := by
  decide +revert

/-- Decoding on one channel leaves the other's decoder as it was (R28). -/
theorem OnlyDecodes.sameDecoder {c d : Chan} {s t : State} (h : OnlyDecodes c d s t) :
    SameDecoder (s.chan d) (t.chan d) := by
  obtain ⟨ys, -, hd⟩ := h.outputs
  rw [hd]
  split
  · exact sameDecoder_enqueue _ ys
  · exact ⟨rfl, rfl, rfl, rfl, rfl⟩

/-- A channel that was fed a sample after its history moved on still has that history. -/
theorem feed_remember_history (C : Cfg) (c : Chan) (y : Sample) (s : State) :
    let t := feed C c y (s.setChan c ((s.chan c).remember y))
    (t.chan c).old = y ∧ (t.chan c).older = (s.chan c).old := by
  dsimp only
  rw [feed_chan, State.chan_setChan]
  exact ChanState.feed_history ..

/-- Settles O28: the item under the default configuration is `nibbleFollowsTheConfiguration`, and feeding keeps the history,
the other channel's decoder and everything outside the channels. -/
theorem nibbleDecodesOneSample : Obligations.NibbleDecodesOneSample := by
  intro b filter raw n s c d f eff
  obtain ⟨y, hy, hexec⟩ := nibbleFollowsTheConfiguration cfg b filter raw n s
  change execOf cfg (.nibble b filter raw n) s = .next (feed cfg c y (s.setChan c ((s.chan c).remember y))) at hexec
  have hcd : d ≠ c := by
    by_cases h : s.modeCh = .stereo ∧ b % 2 = 1 <;> simp [c, d, h]
  have decodes : OnlyDecodes c d s (feed cfg c y (s.setChan c ((s.chan c).remember y))) :=
    (setChan_onlyDecodes hcd (by rfl)).trans (feed_onlyDecodes cfg hcd y _)
  have frame := (setChan_onlyChannels s c ((s.chan c).remember y)).trans (feed_onlyChannels cfg c y _)
  obtain ⟨hold, holder⟩ := feed_remember_history cfg c y s
  refine ⟨_, (exec_eq_execOf _ _).trans hexec, holder, ?_, ?_, decodes.sameDecoder, fun hrate => ?_, frame.modeCh,
    frame.modeRate, frame.mute, frame.port, frame.pending, frame.results⟩
  · rw [hold, hy, xaFilter_cfg, effectiveShiftTable.1]
    rfl
  · rw [hold]
    rfl
  · rw [hold, feed_chan, State.chan_setChan, State.setChan_modeRate, hrate]
    exact ChanState.push_ring ..

/-! ### The bounds of R96 -/

theorem sext4_bounds (n : Nibble) : -8 ≤ sext4 n ∧ sext4 n ≤ 7 := by
  decide +revert

theorem shiftedNibble_bounds (raw n : Nibble) :
    -32768 ≤ sext4 n * 2 ^ cfg.xaEffShift raw ∧ sext4 n * 2 ^ cfg.xaEffShift raw ≤ 28672 := by
  have heff : ∀ raw, (1 : Int) ≤ 2 ^ cfg.xaEffShift raw ∧ (2 : Int) ^ cfg.xaEffShift raw ≤ 4096 := by decide
  obtain ⟨hpos, hle⟩ := heff raw
  obtain ⟨hlo, hhi⟩ := sext4_bounds n
  constructor <;> nlinarith

theorem Sample.bounds (y : Sample) : -32768 ≤ y.toInt ∧ y.toInt ≤ 32767 := by
  have hlo := BitVec.le_toInt y
  have hhi := BitVec.toInt_lt (x := y)
  omega

/-- The numerator of the prediction, for each of the four coefficient pairs. -/
theorem numerator_bounds (filter : Nibble) (x : ChanState) :
    let num := (cfg.xaFilter filter).1 * x.old.toInt + (cfg.xaFilter filter).2 * x.older.toInt + 32;
    -((115 + 55) * 32768) + 32 ≤ num ∧ num ≤ (115 + 55) * 32768 + 32 := by
  have hpair : ∀ filter, cfg.xaFilter filter ∈ [((0 : Int), (0 : Int)), (60, 0), (115, -52), (98, -55)] := by decide
  obtain ⟨h1, h2⟩ := Sample.bounds x.old
  obtain ⟨h3, h4⟩ := Sample.bounds x.older
  have hmem := hpair filter
  simp only [List.mem_cons, List.not_mem_nil, or_false] at hmem
  obtain h | h | h | h := hmem <;> simp only [h] <;> omega

/-- Rounding toward zero is rounding down, or one more. -/
theorem tdiv_64_eq (x : Int) : x.tdiv 64 = x / 64 ∨ x.tdiv 64 = x / 64 + 1 := by
  rw [Int.tdiv_eq_ediv]
  split
  · exact .inl (Int.add_zero _)
  · exact .inr rfl

/-- Settles O33: the shifted nibble, the numerator, its 64th part, and their sum, in that order. -/
theorem decoderNumbersFitThirtyTwoBits : Obligations.DecoderNumbersFitThirtyTwoBits := by
  intro x filter raw n t f num pred
  obtain ⟨htlo, hthi⟩ : -32768 ≤ t ∧ t ≤ 28672 := shiftedNibble_bounds raw n
  obtain ⟨hnlo, hnhi⟩ : -((115 + 55) * 32768) + 32 ≤ num ∧ num ≤ (115 + 55) * 32768 + 32 := numerator_bounds filter x
  have hpred : pred = num / 64 ∨ pred = num / 64 + 1 := tdiv_64_eq num
  refine ⟨⟨htlo, hthi⟩, ⟨hnlo, hnhi⟩, ?_⟩
  omega

/-! ### Runs of items -/

theorem execAll_append {is js : List Instr} {s t : State} (h : execAll is s = .next t) :
    execAll (is ++ js) s = execAll js t := by
  induction is generalizing s with
  | nil => cases h; rfl
  | cons i is ih =>
    rw [execAll] at h
    rw [List.cons_append, execAll]
    split at h
    · exact ih h
    · cases h
    · cases h

/-- If the items of each `a` do what `f` does with it, from every state that differs from `s` in the channels only, then the
items of a list do what the fold of `f` does. -/
theorem execAll_flatMap {α : Type} {is : α → List Instr} {f : State → α → State} {s : State} (l : List α)
    (h : ∀ a ∈ l, ∀ t, OnlyChannels s t → execAll (is a) t = .next (f t a) ∧ OnlyChannels t (f t a)) {t : State}
    (ht : OnlyChannels s t) : execAll (l.flatMap is) t = .next (l.foldl f t) := by
  induction l generalizing t with
  | nil => rfl
  | cons a l ih =>
    obtain ⟨hexec, frame⟩ := h a List.mem_cons_self t ht
    rw [List.flatMap_cons, execAll_append hexec]
    exact ih (fun b hb => h b (List.mem_cons_of_mem a hb)) (ht.trans frame)

theorem execAll_map {α : Type} {i : α → Instr} {f : State → α → State} {s : State} (l : List α)
    (h : ∀ a ∈ l, ∀ t, OnlyChannels s t → exec (i a) t = .next (f t a) ∧ OnlyChannels t (f t a)) {t : State}
    (ht : OnlyChannels s t) : execAll (l.map i) t = .next (l.foldl f t) := by
  rw [List.map_eq_flatMap]
  refine execAll_flatMap l (fun a ha u hu => ?_) ht
  obtain ⟨hexec, frame⟩ := h a ha u hu
  exact ⟨by rw [execAll, hexec]; rfl, frame⟩

/-! ### Sub-blocks -/

theorem exec_soundParam {blk b : Nat} (hblk : blk < 18) (hb : b < 8) (filter raw : Nibble) (s : State) :
    exec (.soundParam blk b filter raw) s = .next (decodeSamples cfg (chanOf s.modeCh b) blk b filter raw s) :=
  if_pos ⟨hblk, hb⟩

/-- Settles O29: the samples of a sub-block are its nibble items one after another. -/
theorem soundParamDecodesItsSubBlock : Obligations.SoundParamDecodesItsSubBlock := by
  intro blk b filter raw s hblk hb
  refine ⟨_, exec_soundParam hblk hb filter raw s, execAll_map _ (fun j _ t ht => ?_) (OnlyChannels.refl s)⟩
  refine ⟨?_, decodeSample_onlyChannels ..⟩
  rw [← ht.modeCh, ← ht.port]
  rfl

/-- Settles O30: each row runs the item with its two filter bits, and the pairs are listed. -/
theorem filterRowsSelectTheirPairs : Obligations.FilterRowsSelectTheirPairs := by
  refine ⟨by decide, fun blk b xx raw s hblk hb => ?_⟩
  have row (f : BitVec 2) := exec_soundParam hblk hb (xx ++ f) raw s
  exact ⟨⟨_, row 0, row 0⟩, ⟨_, row 1, row 1⟩, ⟨_, row 2, row 2⟩, ⟨_, row 3, row 3⟩⟩

/-- Settles O31: all five items are `subBlockItem`, which faults there. -/
theorem soundParamOutsideTheSectorFaults : Obligations.SoundParamOutsideTheSectorFaults :=
  fun _ _ _ _ _ _ h => ⟨if_neg h, if_neg h, if_neg h, if_neg h, if_neg h⟩

/-- A sub-block is its sound-parameter item, the fields read from the sector that is decoded (R57, R58). -/
theorem exec_soundParam_of_sector {blk b : Nat} (hblk : blk < 18) (hb : b < 8) (s : State) :
    let sp := s.port.sector.read (24 + 128 * blk + 4 + b)
    exec (.soundParam blk b (sp.extractLsb' 4 4) (sp.extractLsb' 0 4)) s = .next (decodeSubBlock cfg blk b s) :=
  exec_soundParam hblk hb _ _ s

/-- Settles O55: sub-block by sub-block, and so block by block, the items are what `decodeBlocks` folds. -/
theorem xaDecodeWalksItsItems : Obligations.XaDecodeWalksItsItems := by
  refine ⟨fun blk b x hblk hb => ?_, fun s ch rate hm => ⟨_, ?_, exec_xaDecode_of_supported hm⟩⟩
  · have hplace : subBlockExists cfg blk b = true := by
      rw [subBlockExists, Bool.and_eq_true]
      exact ⟨decide_eq_true hblk, decide_eq_true hb⟩
    exact if_pos hplace
  · refine execAll_flatMap _ (fun blk hblk t ht => ?_) (OnlyChannels.refl _)
    refine ⟨execAll_map _ (fun b hb u hu => ?_) (OnlyChannels.refl t), decodeBlock_onlyChannels cfg blk t⟩
    have hport : u.port = s.port := hu.port.trans ht.port
    refine ⟨?_, decodeSubBlock_onlyChannels cfg blk b u⟩
    rw [← hport]
    exact exec_soundParam_of_sector (List.mem_range.mp hblk) (List.mem_range.mp hb) u

end Sys2Proof.Machine
end

section
/-! PROOFS. 42_xa_resample.md, R115 and R118: the size of the interpolator's sum (`InterpolatorSumFits`) and what it answers
on constants (`InterpolatorOfConstants`). Both are facts about a weighted sum whose weights are a column of the table: the
samples are bounded, or all the same. -/

namespace Sys2Proof.Machine

/-- The largest absolute value of a weighted sum is the bound of the values times the weights' absolute values. -/
theorem natAbs_weightedSum_le {α : Type} {a z : α → Int} {B : Nat} (h : ∀ i, (a i).natAbs ≤ B) (l : List α) :
    (l.map fun i => a i * z i).sum.natAbs ≤ B * (l.map fun i => (z i).natAbs).sum := by
  induction l with
  | nil => simp
  | cons i l ih =>
    rw [List.map_cons, List.map_cons, List.sum_cons, List.sum_cons]
    calc (a i * z i + (l.map fun i => a i * z i).sum).natAbs
      _ ≤ (a i * z i).natAbs + (l.map fun i => a i * z i).sum.natAbs := Int.natAbs_add_le _ _
      _ ≤ B * (z i).natAbs + B * (l.map fun i => (z i).natAbs).sum := by
        rw [Int.natAbs_mul]
        exact Nat.add_le_add (Nat.mul_le_mul_right _ (h i)) ih
      _ = B * ((z i).natAbs + (l.map fun i => (z i).natAbs).sum) := (Nat.mul_add ..).symm

/-- The sum of the absolute values of a column of the default table. -/
def columnAbsSum (k : Nat) : Nat := ((List.range 29).map fun i => (cfg.zigzag k i).natAbs).sum

theorem columnAbsSum_le : ∀ k < 7, columnAbsSum k ≤ 56030 := by decide

theorem zigzagSum_natAbs_le (x : ChanState) (k : Nat) : (zigzagSum cfg x k).natAbs ≤ 32768 * columnAbsSum k := by
  rw [zigzagSum_eq_sum]
  refine natAbs_weightedSum_le (fun i => ?_) _
  obtain ⟨hlo, hhi⟩ := Sample.bounds (tapSample cfg x i)
  omega

/-- Settles O34: the columns are added up, and `zigzagSum_natAbs_le` bounds the sum by its column. -/
theorem interpolatorSumFits : Obligations.InterpolatorSumFits := by
  refine ⟨columnAbsSum_le, by decide, by decide, fun x k hk => ?_⟩
  have hcolumn := columnAbsSum_le k hk
  have hsum : (zigzagSum cfg x k).natAbs ≤ 32768 * 56030 :=
    (zigzagSum_natAbs_le x k).trans (Nat.mul_le_mul_left _ hcolumn)
  omega

/-- Where every tap meets the same sample the sum is that sample times the column's sum. -/
theorem zigzagSum_of_constant {C : Cfg} {x : ChanState} {v : Sample} (h : ∀ i < C.zigzagTaps, tapSample C x i = v)
    (k : Nat) : zigzagSum C x k = v.toInt * ((List.range C.zigzagTaps).map (C.zigzag k)).sum := by
  rw [zigzagSum_eq_sum, ← List.sum_map_mul_left]
  congr 1
  refine List.map_congr_left fun i hi => ?_
  rw [h i (List.mem_range.mp hi)]

theorem tapSample_of_zeros {x : ChanState} (h : ∀ v ∈ x.ring, v = 0) (C : Cfg) (i : Nat) : tapSample C x i = 0 := by
  rw [tapSample, List.getD_eq_getElem?_getD]
  rcases hv : x.ring[(((x.p : Int) - 1 - i) % C.ringEntries).toNat]? with _ | v
  · rfl
  · exact h v (List.mem_of_getElem? hv)

/-- The column sums of the default table (R118). -/
theorem columnSum_eq : ∀ k < 7, ((List.range 29).map (cfg.zigzag k)).sum =
    [29675, 29725, 29669, 29725, 29677, 29704, 29704].getD k 0 := by decide

/-- Settles O35: both clauses are `zigzagSum_of_constant`, the first for the constant 0. -/
theorem interpolatorOfConstants : Obligations.InterpolatorOfConstants := by
  refine ⟨fun C x k h => ?_, fun x v k hk h => ?_⟩
  · rw [zigzagOutput, zigzagSum_of_constant (fun i _ => tapSample_of_zeros h C i), show (0 : Sample).toInt = 0 from rfl,
      Int.zero_mul]
    rfl
  · rw [zigzagOutput, zigzagSum_of_constant h, ← columnSum_eq k hk]
    rfl

end Sys2Proof.Machine
end

section
/-! PROOFS. 30_encoding.md, section 5: the pseudo-operations `XA.DRAIN` (`DrainAnswersPairsInOrder`) and `XA.SECTOR`
(`SectorIsCheckedBeforeDecoding`). The host's issuing of an operation is that operation on the accepted operands, so each
pseudo-operation is a sequence of `exec`. -/

namespace Sys2Proof.Machine

/-- Issuing an operation runs it on its operands, with the host's list as before. -/
theorem issueNow_request {i : Instr} (hi : decodeCmd (encode i) = .ok i) (track : Byte) (sectorNo : Word) (m : Memory)
    (s : State) :
    issueNow (request i track sectorNo m) s = exec i (s.accept (request i track sectorNo m) s.pending) := by
  have hdecode : decodeCmd (request i track sectorNo m).cmd = .ok i := hi
  rw [issueNow, step, stepBy_of_legal cfg exec (rest := s.pending) rfl hdecode]
  rfl

/-! ### `XA.DRAIN` -/

theorem xaDrain_succ (n : Nat) (s : State) :
    xaDrain (n + 1) s = xaDrain n (popPair (s.accept (request .xaPop 0 0 []) s.pending)) := by
  rw [xaDrain, issueNow_request (by decide), exec_xaPop]

/-- Settles O44: by induction on the number of pops, each of which takes the head of both queues. -/
theorem drainAnswersPairsInOrder : Obligations.DrainAnswersPairsInOrder := by
  intro n
  induction n with
  | zero => exact fun s _ _ _ => ⟨s, rfl, by simp, rfl, rfl, rfl⟩
  | succ n ih =>
    intro s hmute hL hR
    obtain ⟨l, ql, hql⟩ := List.exists_cons_of_length_pos (show 0 < s.chL.q.length by omega)
    obtain ⟨r, qr, hqr⟩ := List.exists_cons_of_length_pos (show 0 < s.chR.q.length by omega)
    rw [hql, List.length_cons] at hL
    rw [hqr, List.length_cons] at hR
    rw [xaDrain_succ, popPair_eq]
    obtain ⟨t, ht, hresults, htL, htR, hpending⟩ := ih
      (State.post { s.accept (request .xaPop 0 0 []) s.pending with chL := s.chL.dequeue, chR := s.chR.dequeue }
        (mutePair s.mute s.chL.head s.chR.head)) hmute
      (by simp [hql]; omega) (by simp [hqr]; omega)
    refine ⟨t, ht, ?_, ?_, ?_, hpending⟩
    · rw [hresults]
      simp [hql, hqr, hmute, mutePair, ChanState.head]
    · rw [htL]
      simp [hql, ChanState.dequeue]
    · rw [htR]
      simp [hqr, ChanState.dequeue]

/-! ### `XA.SECTOR` -/

theorem sectorUsable_post_iff {s : State} {v : OpResult} :
    sectorUsable (s.post v) = true ↔ v = .valid ∨ v = .skipped := by
  simp [sectorUsable]

/-- The first operation of `XA.SECTOR` posts its check on the accepted operands; the second runs if that says so. -/
theorem xaSector_eq (track : Byte) (sectorNo : Word) (m : Memory) (s : State) :
    let r := request .edcCheckMode2 track sectorNo m
    let checked := (s.accept r s.pending).post (checkResult cfg (mode2Window (sectorForm cfg m)) r)
    xaSector track sectorNo m s =
      if sectorUsable checked then issueNow (request .xaDecode 0 0 m) checked else .next checked := by
  rw [xaSector, issueNow_request (by decide), exec_edcCheckMode2]
  rfl

theorem checkResult_usable_iff {C : Cfg} {w : Window} {p : Request} :
    (checkResult C w p = .valid ∨ checkResult C w p = .skipped) ↔
      windowEdc C p.sector w = p.sector.read32 w.field ∨ (w.skipZero = true ∧ p.sector.read32 w.field = 0) := by
  unfold checkResult
  split_ifs <;> simp_all

/-- `XA.DECODE` answers `Decoded`, or the error of an unsupported coding-info byte (R87, R100). -/
theorem exec_xaDecode_answers (s : State) :
    (∃ t n, exec .xaDecode s = .next t ∧ t.results = s.results ++ [.decoded n]) ∨
    exec .xaDecode s = .next (s.raise (.xaUnsupportedCoding (s.port.sector.read 19))) := by
  rcases hm : codingModes (s.port.sector.read 19) with _ | ⟨ch, rate⟩
  · exact .inr (exec_xaDecode_of_unsupported hm)
  · exact .inl ⟨_, _, exec_xaDecode_of_supported hm, decodeBlocks_post_results ch rate s _⟩

/-- Settles O45: by `xaSector_eq` the sector is decoded exactly where the check's result is one of the two usable ones. -/
theorem sectorIsCheckedBeforeDecoding : Obligations.SectorIsCheckedBeforeDecoding := by
  intro track sectorNo m s w
  have hsector := xaSector_eq track sectorNo m s
  dsimp only at hsector
  refine ⟨fun ⟨hne, hskip⟩ => ?_, fun husable => ?_⟩
  · rw [checkResult_eq_mismatch (p := request .edcCheckMode2 track sectorNo m) hskip hne,
      if_neg (by simp [sectorUsable_post_iff])] at hsector
    exact ⟨_, hsector, sameBlock_accept_post .., rfl⟩
  · have hresult := (checkResult_usable_iff (p := request .edcCheckMode2 track sectorNo m)).mpr husable
    rw [if_pos (sectorUsable_post_iff.mpr hresult)] at hsector
    rw [hsector, issueNow_request (by decide)]
    generalize checkResult cfg (mode2Window (sectorForm cfg m)) _ = u at hresult
    obtain ⟨t, n, hexec, hresults⟩ | hexec := exec_xaDecode_answers
      (((s.accept (request .edcCheckMode2 track sectorNo m) s.pending).post u).accept (request .xaDecode 0 0 m) s.pending)
    · exact ⟨t, u, .decoded n, hexec, hresults.trans (List.append_assoc ..), hresult, .inl ⟨n, rfl⟩⟩
    · exact ⟨_, u, _, hexec, List.append_assoc .., hresult, .inr ⟨rfl, ⟨rfl, rfl, rfl, rfl, rfl⟩⟩⟩

end Sys2Proof.Machine
end

section
/-! PROOFS. 20_memory.md, section 1: the offsets an operation reads (`OffsetsStayInsideTheSector`). -/

namespace Sys2Proof.Machine

theorem soundParamOffset_read {blk b : Nat} (hblk : blk < 18) (hb : b < 8) :
    readByXaDecode (soundParamOffset cfg blk b) = true ∧ soundParamOffset cfg blk b ≤ 2327 := by
  rw [readByXaDecode_iff, soundParamOffset_cfg]
  omega

theorem nibbleOffset_read {blk b j : Nat} (hblk : blk < 18) (hb : b < 8) (hj : j < 28) :
    readByXaDecode (nibbleOffset cfg blk b j) = true ∧ nibbleOffset cfg blk b j ≤ 2327 := by
  rw [readByXaDecode_iff, nibbleOffset_cfg]
  omega

theorem geometryFits_cfg : GeometryFits cfg := ⟨rfl, rfl, by decide, rfl, by decide⟩

/-- Settles O54: the items' offsets by arithmetic, the windows by `checkedWindow_layout`. -/
theorem offsetsStayInsideTheSector : Obligations.OffsetsStayInsideTheSector := by
  refine ⟨fun m => ⟨sectorForm_cfg m, rfl⟩, by decide, fun blk b j hblk hb hj => ?_, rfl, fun tm m w hw => ?_,
    geometryFits_cfg⟩
  · obtain ⟨hspRead, hspLe⟩ := soundParamOffset_read hblk hb
    obtain ⟨hnRead, hnLe⟩ := nibbleOffset_read hblk hb hj
    exact ⟨hspRead, hnRead, hspLe, hnLe⟩
  · obtain ⟨hle, hfield, hend, -⟩ := checkedWindow_layout hw
    exact ⟨hle, hfield, by omega⟩

end Sys2Proof.Machine
end
